-- ==== Sys2Proof/Word.lean ====
section
/-!
DEFINITION. The widths the spec treats as bits: bytes, 16-bit words, 4-bit register indices, 12-bit addresses and the
keypad's 16 bits (00_scope.md R7, R9; 30_encoding.md R51, R52).
-/

namespace Sys2Proof

/-- An 8-bit value: a general register, a memory byte, a timer (00_scope.md R7). -/
abbrev Byte := BitVec 8

/-- A 16-bit value: `pc`, `I`, a return address, an opcode (00_scope.md R7). -/
abbrev Word := BitVec 16

/-- A 4-bit register index, 0 to 15; 15 names `VF` (10_state.md R16, R17). -/
abbrev RegIx := BitVec 4

/-- The unsigned 12-bit address field `nnn` of an opcode (30_encoding.md R52). -/
abbrev Addr := BitVec 12

/-- The sixteen keys, bit `k` set when hex key `k` is pressed (10_state.md R26). -/
abbrev Keys := BitVec 16

/-- `VF`, the register the flag side effects write (10_state.md R17). -/
abbrev VF : RegIx := 0xF#4

/-- `V0`, the register `Bnnn` adds (41_control.md R82). -/
abbrev V0 : RegIx := 0x0#4

end Sys2Proof
end

