-- ==== Sys2Proof/Config.lean ====
section
/-!
DEFINITION. What one machine fixes and a run never changes (the parameters of 00_scope.md R8), and the free values of the
model: what the host outside the core supplies when nothing fixes it (40_sequencing.md R59, R74; 70_reset_and_hazards.md
R133). The parameters stand in State as plain data, so that a claim over all states is a claim over all their values; a free
value has no body, so that no proof can see what it is.
-/

namespace Sys2Proof

/-- `SHIFT_SOURCE`: the register `8xy6` and `8xyE` shift (43_alu.md R93, 92_eei_decisions.md D5). -/
inductive ShiftSource where
  | vx
  | vy
  deriving DecidableEq, Repr

/-- `FLAG_ORDER`: which of result and flag is written last (43_alu.md R92, 92_eei_decisions.md D6). -/
inductive FlagOrder where
  | flagLast
  | flagFirst
  deriving DecidableEq, Repr

/-- The five parameters of 00_scope.md R8, each with the default of 92_eei_decisions.md. -/
structure Config where
  /-- `INDEX_ADVANCE`: whether `Fx55` and `Fx65` advance `I` (92_eei_decisions.md D8). -/
  indexAdvance : Bool := true
  /-- `SHIFT_SOURCE` (92_eei_decisions.md D5). -/
  shiftSource : ShiftSource := .vx
  /-- `FLAG_ORDER` (92_eei_decisions.md D6). -/
  flagOrder : FlagOrder := .flagLast
  /-- `GLYPH_BASE`, the address of glyph 0 (92_eei_decisions.md D4). -/
  glyphBase : Word := 0x0000#16
  /-- `LOW_MEM_IMAGE`, the reset contents of 0x000 to 0x1FF (92_eei_decisions.md D3): the byte of address `a` is entry `a`,
  an address past the list's end holds 0x00, and entries from 0x200 on are not used. The empty list is the spec's default,
  all 0x00. -/
  lowMemImage : List Byte := []
  deriving DecidableEq, Repr

/-- FREE VALUE. The keypad snapshot of the `n`-th `step` call that no script fixes (40_sequencing.md R63: supplied fresh by the
host on every step call). -/
opaque Config.freeKeys : Nat → Keys

/-- FREE VALUE. The random byte of the `n`-th `step` call that no script fixes (40_sequencing.md R74, 92_eei_decisions.md
D20: under no law). -/
opaque Config.freeRnd : Nat → Byte

/-- FREE VALUE. How many `tick_timers` calls the host makes before the `n`-th `step` call that no script fixes
(70_reset_and_hazards.md R133, 93_implementation_defined.md U17: any natural number). -/
opaque Config.freeTicks : Nat → Nat

end Sys2Proof
end

