-- ==== Sys2Proof/Syntax.lean ====
section
/-!
DEFINITION. The instructions, one constructor per row of spec/opcode_table.json in the table's order (30_encoding.md R55), the
sentinel of the decode gap last. Each docstring gives the row's pattern, the spec's variant name and its rule.
-/

namespace Sys2Proof

/-- An instruction with its operand fields as the decoder pulls them from the opcode (30_encoding.md R51, R52). -/
inductive Instr where
  /-- `00E0` Clear (41_control.md R78). -/
  | cls
  /-- `00EE` Return (41_control.md R79). -/
  | ret
  /-- `1nnn` Jump (41_control.md R80). -/
  | jp (nnn : Addr)
  /-- `2nnn` Call (41_control.md R81). -/
  | call (nnn : Addr)
  /-- `Bnnn` JumpV0 (41_control.md R82). -/
  | jpV0 (nnn : Addr)
  /-- `3xkk` SkipEqImm (42_skip.md R84). -/
  | seImm (x : RegIx) (kk : Byte)
  /-- `4xkk` SkipNeImm (42_skip.md R85). -/
  | sneImm (x : RegIx) (kk : Byte)
  /-- `5xy0` SkipEqReg (42_skip.md R86). -/
  | seReg (x y : RegIx)
  /-- `9xy0` SkipNeReg (42_skip.md R87). -/
  | sneReg (x y : RegIx)
  /-- `Ex9E` SkipKeyPressed (42_skip.md R88). -/
  | skp (x : RegIx)
  /-- `ExA1` SkipKeyNotPressed (42_skip.md R89). -/
  | sknp (x : RegIx)
  /-- `6xkk` LoadImm (43_alu.md R94). -/
  | ldImm (x : RegIx) (kk : Byte)
  /-- `7xkk` AddImm (43_alu.md R95). -/
  | addImm (x : RegIx) (kk : Byte)
  /-- `8xy0` Set (43_alu.md R96). -/
  | ldReg (x y : RegIx)
  /-- `8xy1` Or (43_alu.md R97). -/
  | orReg (x y : RegIx)
  /-- `8xy2` And (43_alu.md R97). -/
  | andReg (x y : RegIx)
  /-- `8xy3` Xor (43_alu.md R97). -/
  | xorReg (x y : RegIx)
  /-- `8xy4` Add (43_alu.md R98). -/
  | addReg (x y : RegIx)
  /-- `8xy5` Sub (43_alu.md R99). -/
  | sub (x y : RegIx)
  /-- `8xy6` ShiftRight (43_alu.md R100). -/
  | shr (x y : RegIx)
  /-- `8xy7` SubInv (43_alu.md R101). -/
  | subn (x y : RegIx)
  /-- `8xyE` ShiftLeft (43_alu.md R102). -/
  | shl (x y : RegIx)
  /-- `Annn` LoadIndex (44_memory_index.md R103). -/
  | ldI (nnn : Addr)
  /-- `Fx1E` AddIndex (44_memory_index.md R104). -/
  | addI (x : RegIx)
  /-- `Fx29` LoadHexGlyph (44_memory_index.md R105). -/
  | ldF (x : RegIx)
  /-- `Fx33` StoreBCD (44_memory_index.md R106). -/
  | ldB (x : RegIx)
  /-- `Fx55` StoreRegisters (44_memory_index.md R107). -/
  | ldMemV (x : RegIx)
  /-- `Fx65` LoadRegisters (44_memory_index.md R108). -/
  | ldVMem (x : RegIx)
  /-- `Cxkk` Random (45_io.md R109). -/
  | rnd (x : RegIx) (kk : Byte)
  /-- `Dxyn` Draw (45_io.md R110). -/
  | drw (x y n : BitVec 4)
  /-- `Fx07` GetDelay (45_io.md R111). -/
  | ldVDt (x : RegIx)
  /-- `Fx15` SetDelay (45_io.md R112). -/
  | ldDtV (x : RegIx)
  /-- `Fx18` SetSound (45_io.md R113). -/
  | ldStV (x : RegIx)
  /-- `Fx0A` WaitKey (45_io.md R114). -/
  | ldVK (x : RegIx)
  /-- The sentinel Unknown, which carries the whole undefined opcode (40_sequencing.md R69). -/
  | unknown (op : Word)
  deriving DecidableEq, Repr

end Sys2Proof
end

