-- ==== Sys2Proof/WellFormed.lean ====
section
/-!
DEFINITION. Which terms of Instr stand for an instruction. Every operand field has its exact width, so the one check is that
the sentinel carries a word that is undefined (30_encoding.md R56).
-/

namespace Sys2Proof

/-- The words the decoder gives to the sentinel, class by class as 30_encoding.md R56 lists them. -/
def undefinedWord (op : Word) : Bool :=
  let n := op.extractLsb' 0 4
  let kk := op.extractLsb' 0 8
  match op.extractLsb' 12 4 with
  | 0x0#4 => op != 0x00E0#16 && op != 0x00EE#16
  | 0x5#4 => n != 0x0#4
  | 0x8#4 => [0x8#4, 0x9#4, 0xA#4, 0xB#4, 0xC#4, 0xD#4, 0xF#4].contains n
  | 0x9#4 => n != 0x0#4
  | 0xE#4 => !([0x9E#8, 0xA1#8].contains kk)
  | 0xF#4 => !([0x07#8, 0x0A#8, 0x15#8, 0x18#8, 0x1E#8, 0x29#8, 0x33#8, 0x55#8, 0x65#8].contains kk)
  | _ => false

/-- Whether a term stands for an instruction: every operand value of the 34 patterns is legal (30_encoding.md R52), and the
sentinel's word must match none of them (30_encoding.md R53, R56). -/
def Instr.wellFormed : Instr → Bool
  | .cls => true
  | .ret => true
  | .jp _ => true
  | .call _ => true
  | .jpV0 _ => true
  | .seImm _ _ => true
  | .sneImm _ _ => true
  | .seReg _ _ => true
  | .sneReg _ _ => true
  | .skp _ => true
  | .sknp _ => true
  | .ldImm _ _ => true
  | .addImm _ _ => true
  | .ldReg _ _ => true
  | .orReg _ _ => true
  | .andReg _ _ => true
  | .xorReg _ _ => true
  | .addReg _ _ => true
  | .sub _ _ => true
  | .shr _ _ => true
  | .subn _ _ => true
  | .shl _ _ => true
  | .ldI _ => true
  | .addI _ => true
  | .ldF _ => true
  | .ldB _ => true
  | .ldMemV _ => true
  | .ldVMem _ => true
  | .rnd _ _ => true
  | .drw _ _ _ => true
  | .ldVDt _ => true
  | .ldDtV _ => true
  | .ldStV _ => true
  | .ldVK _ => true
  | .unknown op => undefinedWord op

end Sys2Proof
end

