-- ==== Sys2Proof/Decode.lean ====
section
/-!
DEFINITION. The decoder (30_encoding.md R50 to R54), total on every word, and the encoder written from the same opcode map
(30_encoding.md R55). An undefined word is not refused: it decodes to the sentinel, which carries it (30_encoding.md R57).
-/

namespace Sys2Proof

/-- The major opcode nibble, bits 15:12 (30_encoding.md R51). -/
def fieldMajor (op : Word) : BitVec 4 := op.extractLsb' 12 4

/-- Field `x`, bits 11:8 (30_encoding.md R51). -/
def fieldX (op : Word) : RegIx := op.extractLsb' 8 4

/-- Field `y`, bits 7:4 (30_encoding.md R51). -/
def fieldY (op : Word) : RegIx := op.extractLsb' 4 4

/-- Field `n`, bits 3:0 (30_encoding.md R51). -/
def fieldN (op : Word) : BitVec 4 := op.extractLsb' 0 4

/-- Field `kk`, bits 7:0 (30_encoding.md R51). -/
def fieldKK (op : Word) : Byte := op.extractLsb' 0 8

/-- Field `nnn`, bits 11:0 (30_encoding.md R51). -/
def fieldNNN (op : Word) : Addr := op.extractLsb' 0 12

/-- Major nibble 0: two whole words, the rest undefined (30_encoding.md R54, R56). -/
def decodeMajor0 (op : Word) : Instr :=
  if op = 0x00E0#16 then .cls
  else if op = 0x00EE#16 then .ret
  else .unknown op

/-- Major nibble 8: the sub-opcode is `n` (30_encoding.md R54). -/
def decodeMajor8 (op : Word) : Instr :=
  match fieldN op with
  | 0x0#4 => .ldReg (fieldX op) (fieldY op)
  | 0x1#4 => .orReg (fieldX op) (fieldY op)
  | 0x2#4 => .andReg (fieldX op) (fieldY op)
  | 0x3#4 => .xorReg (fieldX op) (fieldY op)
  | 0x4#4 => .addReg (fieldX op) (fieldY op)
  | 0x5#4 => .sub (fieldX op) (fieldY op)
  | 0x6#4 => .shr (fieldX op) (fieldY op)
  | 0x7#4 => .subn (fieldX op) (fieldY op)
  | 0xE#4 => .shl (fieldX op) (fieldY op)
  | _ => .unknown op

/-- Major nibble E: the sub-opcode is `kk` (30_encoding.md R54). -/
def decodeMajorE (op : Word) : Instr :=
  match fieldKK op with
  | 0x9E#8 => .skp (fieldX op)
  | 0xA1#8 => .sknp (fieldX op)
  | _ => .unknown op

/-- Major nibble F: the sub-opcode is `kk` (30_encoding.md R54). -/
def decodeMajorF (op : Word) : Instr :=
  match fieldKK op with
  | 0x07#8 => .ldVDt (fieldX op)
  | 0x0A#8 => .ldVK (fieldX op)
  | 0x15#8 => .ldDtV (fieldX op)
  | 0x18#8 => .ldStV (fieldX op)
  | 0x1E#8 => .addI (fieldX op)
  | 0x29#8 => .ldF (fieldX op)
  | 0x33#8 => .ldB (fieldX op)
  | 0x55#8 => .ldMemV (fieldX op)
  | 0x65#8 => .ldVMem (fieldX op)
  | _ => .unknown op

/-- The decoder, a pure total function of the opcode (30_encoding.md R53, R54). -/
def decode (op : Word) : Instr :=
  match fieldMajor op with
  | 0x0#4 => decodeMajor0 op
  | 0x1#4 => .jp (fieldNNN op)
  | 0x2#4 => .call (fieldNNN op)
  | 0x3#4 => .seImm (fieldX op) (fieldKK op)
  | 0x4#4 => .sneImm (fieldX op) (fieldKK op)
  | 0x5#4 => if fieldN op = 0x0#4 then .seReg (fieldX op) (fieldY op) else .unknown op
  | 0x6#4 => .ldImm (fieldX op) (fieldKK op)
  | 0x7#4 => .addImm (fieldX op) (fieldKK op)
  | 0x8#4 => decodeMajor8 op
  | 0x9#4 => if fieldN op = 0x0#4 then .sneReg (fieldX op) (fieldY op) else .unknown op
  | 0xA#4 => .ldI (fieldNNN op)
  | 0xB#4 => .jpV0 (fieldNNN op)
  | 0xC#4 => .rnd (fieldX op) (fieldKK op)
  | 0xD#4 => .drw (fieldX op) (fieldY op) (fieldN op)
  | 0xE#4 => decodeMajorE op
  | 0xF#4 => decodeMajorF op
  -- never reached: the sixteen values of a nibble stand above
  | _ => .unknown op

/-- The word of two bytes in the order memory holds them: the byte at the lower address supplies bits 15:8
(20_memory.md R40). -/
def wordOfBytes (hi lo : Byte) : Word := hi ++ lo

/-- The byte of a word that lies at the lower address (20_memory.md R40). -/
def highByte (op : Word) : Byte := op.extractLsb' 8 8

/-- The byte of a word that lies at the higher address (20_memory.md R40). -/
def lowByte (op : Word) : Byte := op.extractLsb' 0 8

/-- Why a sequence of bytes holds no instruction. -/
inductive DecodeError where
  /-- Fewer than two bytes: every instruction is one 16-bit opcode (30_encoding.md R50). -/
  | truncated
  deriving DecidableEq, Repr

/-- Reads one instruction from bytes in memory order and gives the bytes after it (30_encoding.md R50). -/
def decodeBytes : List Byte → Except DecodeError (Instr × List Byte)
  | hi :: lo :: rest => .ok (decode (wordOfBytes hi lo), rest)
  | _ => .error .truncated

/-- Format `A`: a major nibble and `nnn` (30_encoding.md R51). -/
def packA (major : BitVec 4) (nnn : Addr) : Word := major ++ nnn

/-- Formats `XK` and `X`: a major nibble, `x` and a byte (30_encoding.md R51). -/
def packXK (major x : BitVec 4) (kk : Byte) : Word := (major ++ x : Byte) ++ kk

/-- Formats `XY` and `XYN`: a major nibble, `x`, `y` and a last nibble (30_encoding.md R51). -/
def packXYN (major x y n : BitVec 4) : Word := (major ++ x : Byte) ++ (y ++ n : Byte)

/-- The word of an instruction, from the opcode map (30_encoding.md R55). -/
def encode : Instr → Word
  | .cls => 0x00E0#16
  | .ret => 0x00EE#16
  | .jp nnn => packA 0x1#4 nnn
  | .call nnn => packA 0x2#4 nnn
  | .jpV0 nnn => packA 0xB#4 nnn
  | .seImm x kk => packXK 0x3#4 x kk
  | .sneImm x kk => packXK 0x4#4 x kk
  | .seReg x y => packXYN 0x5#4 x y 0x0#4
  | .sneReg x y => packXYN 0x9#4 x y 0x0#4
  | .skp x => packXK 0xE#4 x 0x9E#8
  | .sknp x => packXK 0xE#4 x 0xA1#8
  | .ldImm x kk => packXK 0x6#4 x kk
  | .addImm x kk => packXK 0x7#4 x kk
  | .ldReg x y => packXYN 0x8#4 x y 0x0#4
  | .orReg x y => packXYN 0x8#4 x y 0x1#4
  | .andReg x y => packXYN 0x8#4 x y 0x2#4
  | .xorReg x y => packXYN 0x8#4 x y 0x3#4
  | .addReg x y => packXYN 0x8#4 x y 0x4#4
  | .sub x y => packXYN 0x8#4 x y 0x5#4
  | .shr x y => packXYN 0x8#4 x y 0x6#4
  | .subn x y => packXYN 0x8#4 x y 0x7#4
  | .shl x y => packXYN 0x8#4 x y 0xE#4
  | .ldI nnn => packA 0xA#4 nnn
  | .addI x => packXK 0xF#4 x 0x1E#8
  | .ldF x => packXK 0xF#4 x 0x29#8
  | .ldB x => packXK 0xF#4 x 0x33#8
  | .ldMemV x => packXK 0xF#4 x 0x55#8
  | .ldVMem x => packXK 0xF#4 x 0x65#8
  | .rnd x kk => packXK 0xC#4 x kk
  | .drw x y n => packXYN 0xD#4 x y n
  | .ldVDt x => packXK 0xF#4 x 0x07#8
  | .ldDtV x => packXK 0xF#4 x 0x15#8
  | .ldStV x => packXK 0xF#4 x 0x18#8
  | .ldVK x => packXK 0xF#4 x 0x0A#8
  | .unknown op => op

/-- The bytes of an instruction in memory order (20_memory.md R40). -/
def encodeBytes (i : Instr) : List Byte := [highByte (encode i), lowByte (encode i)]

/-- The opcode whose low `nbits` bits are `w`'s and whose other bits are 0: a table row's bits, numbered from the least
significant bit (30_encoding.md R51). -/
def tableWord (nbits w : Nat) : Word := BitVec.ofNat 16 (w % 2 ^ nbits)

/-- The instruction the decoder reads from a row of the opcode table, laid out in memory order; nothing is read where the
row claims more than the 16 bits an instruction has (30_encoding.md R50). -/
def decodeTableWord (nbits w : Nat) : Option Instr :=
  if nbits ≤ 16 then
    match decodeBytes [highByte (tableWord nbits w), lowByte (tableWord nbits w)] with
    | .ok (i, _) => some i
    | .error _ => none
  else none

end Sys2Proof
end

