-- ==== Sys2Proof/Machine/State.lean ====
section
/-!
DEFINITION. The state of the core as plain data, everything 10_state.md gives it, and after it the model's own fields: the
parameters, the step's random input, the outputs of the last step, and the host's calls to come. Also the reasons a step can
stop, and the state after power-on reset (10_state.md R31).
-/

namespace Sys2Proof.Machine

/-- Memory as its listed bytes: addresses strictly rising, no entry equal to what an unlisted address reads as
(`Memory.unlisted`, in Machine/Ops.lean). It covers 0x000 to 0xFFF (20_memory.md R34). -/
abbrev Memory := List Host.Cell

/-- The 64 x 32 framebuffer: one entry per row `py`, whose bit `px` is the pixel `fb[px][py]` (10_state.md R24). -/
abbrev Framebuffer := Vector (BitVec 64) 32

/-- The execution mode (10_state.md R27). -/
inductive Mode where
  /-- Steps fetch and execute. -/
  | running
  /-- Steps wait for a key, whose number goes to register `t`. -/
  | awaitingKey (t : RegIx)
  deriving DecidableEq, Repr

/-- The fatal faults with the info each records (60_exceptions.md R116). The spec describes what taking one does (R71, R118:
it is latched in `fault`, nothing else changes, and later steps do nothing), so taking one is a NEXT state of this model;
no step answers Host.Outcome.fault. -/
inductive Fault where
  /-- Raised by `2nnn` with 16 entries occupied; info is `pc` (R81). Safe: the spec's own stop. -/
  | stackOverflow (pc : Word)
  /-- Raised by `00EE` with an empty stack; info is `pc` (R79). Safe: the spec's own stop. -/
  | stackUnderflow (pc : Word)
  /-- Raised by `Dxyn`, `Fx33`, `Fx55`, `Fx65` when the highest byte touched lies above 0xFFF; info is the lowest address
  out of range (R37). Safe: the spec's own stop. -/
  | memOutOfRange (a : Word)
  /-- Raised by the fetch when `pc + 1` lies above 0xFFF; info is `pc` (R67, decision D10). Safe: the core may go on where
  the model stops. -/
  | fetchOutOfRange (pc : Word)
  /-- Raised by `Ex9E`, `ExA1` when `V[x]` is no key number; info is `V[x]` (R88, R89, decision D13). Safe: the core may
  go on where the model stops. -/
  | keyIndexOutOfRange (v : Byte)
  deriving DecidableEq, Repr

/-- Why the model gives an instruction no meaning. -/
inductive Refusal where
  /-- An arm of exec for an instruction that has no meaning yet. Safe: the model stops where the core goes on. No arm
  raises it any more. -/
  | notModelled (mnemonic : String)
  deriving DecidableEq, Repr

/-- One call of the host, the core's only source of transitions (40_sequencing.md R59, R60). -/
inductive HostCall where
  /-- `step(keys_in, rnd)` (40_sequencing.md R61). -/
  | step (keysIn : Keys) (rnd : Byte)
  /-- `tick_timers()` (60_exceptions.md R122). -/
  | tick
  /-- `load(bytes)` (40_sequencing.md R75). -/
  | load (bytes : List Byte)
  deriving DecidableEq, Repr

/-- What a `step` call returns (40_sequencing.md R59, R72); the fourth output, `vram`, is the framebuffer as it stands
(92_eei_decisions.md D34), read from State by `State.vram`. -/
structure StepOut where
  /-- Whether this step touched the framebuffer. -/
  vramChanged : Bool
  /-- The fault this step raised or found latched. -/
  fault : Option Fault
  /-- The opcode this step executed as the sentinel, the decode-gap event (R69). -/
  unknown : Option Word
  deriving DecidableEq, Repr

/-- The directive an instruction's handler returns (00_scope.md R11). -/
inductive Directive where
  /-- Advance one instruction width. -/
  | next
  /-- Advance two instruction widths. -/
  | skip
  /-- Go to an address. -/
  | jump (a : Word)
  deriving DecidableEq, Repr

/-- Everything the core holds (10_state.md), then the model's own fields. -/
structure State where
  /-- 4096 bytes (10_state.md R15). -/
  mem : Memory
  /-- The sixteen general registers; entry 15 is `VF` (10_state.md R16, R17). -/
  V : Vector Byte 16
  /-- The index register (10_state.md R20). -/
  I : Word
  /-- The program counter (10_state.md R19). -/
  pc : Word
  /-- The number of occupied stack entries, 0 to 16 (10_state.md R22). -/
  sp : Fin 17
  /-- The sixteen return addresses (10_state.md R21). -/
  stack : Vector Word 16
  /-- The delay timer (10_state.md R23). -/
  DT : Byte
  /-- The sound timer (10_state.md R23). -/
  ST : Byte
  /-- The framebuffer (10_state.md R24). -/
  fb : Framebuffer
  /-- Whether the last step touched the framebuffer (10_state.md R25). -/
  dirty : Bool
  /-- The keypad latch (10_state.md R26). -/
  keys : Keys
  /-- Running or waiting for a key (10_state.md R27). -/
  mode : Mode
  /-- The fault latch (10_state.md R28). -/
  fault : Option Fault
  /-- MODEL'S OWN. The parameters of 00_scope.md R8, which no step changes. -/
  cfg : Config
  /-- MODEL'S OWN. The random byte of the step under way (40_sequencing.md R74), taken in where the step begins. -/
  rndIn : Byte
  /-- MODEL'S OWN. The outputs of the last step (40_sequencing.md R72). -/
  out : StepOut
  /-- MODEL'S OWN. The host calls already fixed, the next one first; where it is empty the host calls `step` with free
  inputs (assumption log 3). -/
  script : List HostCall
  /-- MODEL'S OWN. How many `step` calls took free inputs: the number the next free value is asked for. -/
  draws : Nat
  deriving DecidableEq, Repr

/-- The state right after power-on reset, at the default parameters (10_state.md R31, 70_reset_and_hazards.md R129). -/
def State.reset : State where
  mem := []
  V := Vector.replicate 16 0x00#8
  I := 0x0000#16
  pc := 0x0200#16
  sp := 0
  stack := Vector.replicate 16 0x0000#16
  DT := 0x00#8
  ST := 0x00#8
  fb := Vector.replicate 32 0#64
  dirty := false
  keys := 0x0000#16
  mode := .running
  fault := none
  cfg := {}
  rndIn := 0x00#8
  out := { vramChanged := false, fault := none, unknown := none }
  script := []
  draws := 0

end Sys2Proof.Machine
end

