-- ==== Sys2Proof/Machine/Ops.lean ====
section
/-!
DEFINITION. The named operations over memory, registers, stack, timers and mode, the application of a pc directive, the fetch,
the taking of a fatal fault, and the host operations `load` and `tick_timers`. A fault has no handler and no return
(60_exceptions.md R118, R119), so no operation returns from one.
-/

namespace Sys2Proof.Machine

/-- What every meaning answers. -/
abbrev Result := Host.Outcome State Fault Refusal

/-! ## Memory (20_memory.md) -/

/-- What a byte that nothing has written reads as: its reset value, at the default `LOW_MEM_IMAGE` (10_state.md R31). -/
def Memory.unlisted : Byte := 0x00#8

/-- The number of bytes of memory (20_memory.md R34). -/
def memSize : Nat := 4096

/-- `MemRead(a, 1)`: the byte last written at `a` (20_memory.md R43, R45). Callers check the bound first (R37). -/
def Memory.read : Memory → Nat → Byte
  | [], _ => Memory.unlisted
  | (b, v) :: m, a => if a = b then v else Memory.read m a

/-- Puts an entry in front, unless it says what an unlisted byte says. -/
def Memory.cons (a : Nat) (v : Byte) (m : Memory) : Memory :=
  if v = Memory.unlisted then m else (a, v) :: m

/-- `MemWrite(a, 1, v)` (20_memory.md R35), keeping the canonical form. Callers check the bound first (R37). -/
def Memory.write : Memory → Nat → Byte → Memory
  | [], a, v => Memory.cons a v []
  | (b, w) :: m, a, v =>
    if a < b then Memory.cons a v ((b, w) :: m)
    else if a = b then Memory.cons a v m
    else (b, w) :: Memory.write m a v

/-- The canonical form: addresses strictly rising and inside memory, no entry that says what an unlisted byte says. -/
abbrev Memory.wf (m : Memory) : Prop :=
  m.Pairwise (fun c d => c.1 < d.1) ∧ ∀ c ∈ m, c.1 < memSize ∧ c.2 ≠ Memory.unlisted

/-- Writes bytes at rising addresses from `a`. -/
def Memory.writeBlock : Memory → Nat → List Byte → Memory
  | m, _, [] => m
  | m, a, b :: bs => Memory.writeBlock (m.write a b) (a + 1) bs

/-- Reads `n` bytes at rising addresses from `a`. -/
def Memory.readBlock (m : Memory) : Nat → Nat → List Byte
  | _, 0 => []
  | a, n + 1 => m.read a :: Memory.readBlock m (a + 1) n

/-- Copies bytes to rising addresses from `a`; a byte that would lie above 0xFFF is dropped without error
(40_sequencing.md R75). -/
def Memory.loadFrom : Memory → Nat → List Byte → Memory
  | m, _, [] => m
  | m, a, b :: bs => Memory.loadFrom (if a ≤ 0xFFF then m.write a b else m) (a + 1) bs

/-- The byte of memory at `a`. -/
def State.readByte (s : State) (a : Nat) : Byte := s.mem.read a

/-- The lowest address out of range of an access of `count` bytes from `base`, where there is one; no byte is touched before
this is known, and an access of no byte has none (20_memory.md R35, R37). -/
def outOfRange (base : Word) (count : Nat) : Option Word :=
  if count ≠ 0 ∧ base.toNat + count - 1 > 0xFFF then
    some (if base.toNat < 0x1000 then 0x1000#16 else base)
  else none

/-! ## Registers, stack and timers (10_state.md) -/

/-- `V[r]` (10_state.md R16). -/
def State.reg (s : State) (r : RegIx) : Byte := s.V[r.toNat]'r.isLt

/-- `V[r] <- v` (10_state.md R16): no register is hardwired. -/
def State.setReg (s : State) (r : RegIx) (v : Byte) : State :=
  { s with V := s.V.set r.toNat v r.isLt }

/-- `I <- a` (10_state.md R20). -/
def State.setIndex (s : State) (a : Word) : State := { s with I := a }

/-- Pushes a return address, unless all sixteen entries are occupied (10_state.md R22). -/
def State.push (s : State) (a : Word) : Option State :=
  if h : s.sp.val < 16 then
    some { s with stack := s.stack.set s.sp.val a h, sp := ⟨s.sp.val + 1, by omega⟩ }
  else none

/-- Pops a return address, unless the stack is empty; the entry keeps its value (10_state.md R22). -/
def State.pop (s : State) : Option (Word × State) :=
  if h : 0 < s.sp.val then
    some (s.stack[s.sp.val - 1]'(by omega), { s with sp := ⟨s.sp.val - 1, by omega⟩ })
  else none

/-- Whether key `k` is pressed in the latch (10_state.md R26). -/
def State.keyDown (s : State) (k : RegIx) : Bool := s.keys.getLsbD k.toNat

/-- The least pressed key, where one is pressed (40_sequencing.md R66). -/
def leastKey (keys : Keys) : Option Nat := (List.range 16).find? fun k => keys.getLsbD k

/-- One count of a timer, down to zero and no further (60_exceptions.md R122). -/
def tickDown (v : Byte) : Byte := if v.toNat > 0 then BitVec.ofNat 8 (v.toNat - 1) else v

/-- `n` counts of a timer. -/
def tickDownBy (n : Nat) (v : Byte) : Byte := BitVec.ofNat 8 (v.toNat - n)

/-- `tick_timers()`, in every mode and in the faulted state too (60_exceptions.md R122). -/
def State.tickTimers (s : State) : State := { s with DT := tickDown s.DT, ST := tickDown s.ST }

/-- `n` calls of `tick_timers()`, one after the other. -/
def State.tickMany (n : Nat) (s : State) : State :=
  { s with DT := tickDownBy n s.DT, ST := tickDownBy n s.ST }

/-- `load(bytes)`: a copy to 0x200 and on, at any time, of nothing but memory (40_sequencing.md R75). -/
def State.loadRom (s : State) (bytes : List Byte) : State :=
  { s with mem := s.mem.loadFrom 0x200 bytes }

/-- The host calls to come, replaced. -/
def State.setScript (s : State) (calls : List HostCall) : State := { s with script := calls }

/-- The number of the next free value, replaced. -/
def State.setDraws (s : State) (n : Nat) : State := { s with draws := n }

/-- The framebuffer output, driven on every step (40_sequencing.md R72, 92_eei_decisions.md D34). -/
def State.vram (s : State) : Framebuffer := s.fb

/-- The state after power-on reset of a machine with other parameters: `LOW_MEM_IMAGE` fills 0x000 to 0x1FF
(10_state.md R31). -/
def State.resetWith (c : Config) : State :=
  { State.reset with cfg := c, mem := Memory.writeBlock [] 0 (c.lowMemImage.take 512) }

/-! ## pc directives and faults -/

/-- Applies a directive to the pc, modulo 65536, with no check of alignment or range (40_sequencing.md R70). -/
def State.applyDirective (d : Directive) (s : State) : State :=
  match d with
  | .next => { s with pc := s.pc + 2#16 }
  | .skip => { s with pc := s.pc + 4#16 }
  | .jump a => { s with pc := a }

/-- A handler's end without a fault: its directive is applied after its own writes (40_sequencing.md R70). -/
def State.finish (d : Directive) (s : State) : Result := .next (s.applyDirective d)

/-- TAKES A FATAL FAULT: the latch records it, `dirty` is 0, and everything else stays as it was, `pc` at the faulting
instruction (40_sequencing.md R71, R73; 60_exceptions.md R118). -/
def State.latchFault (f : Fault) (s : State) : State := { s with fault := some f, dirty := false }

/-- A handler's end by a fatal fault, `s` being the state the instruction began in. -/
def State.raise (f : Fault) (s : State) : Result := .next (s.latchFault f)

/-- The code of a fault (60_exceptions.md R116). -/
def Fault.code : Fault → Nat
  | .stackOverflow _ => 1
  | .stackUnderflow _ => 2
  | .memOutOfRange _ => 3
  | .fetchOutOfRange _ => 4
  | .keyIndexOutOfRange _ => 5

/-- The info value of a fault (60_exceptions.md R116). -/
def Fault.info : Fault → Nat
  | .stackOverflow pc => pc.toNat
  | .stackUnderflow pc => pc.toNat
  | .memOutOfRange a => a.toNat
  | .fetchOutOfRange pc => pc.toNat
  | .keyIndexOutOfRange v => v.toNat

/-! ## The parts of a step (40_sequencing.md) -/

/-- The start of a step that finds no fault latched: the keypad latch takes the snapshot, the dirty flag is cleared, and the
random byte is taken in (40_sequencing.md R63, R64, R74). -/
def State.beginStep (keysIn : Keys) (rnd : Byte) (s : State) : State :=
  { s with
    keys := keysIn
    dirty := false
    rndIn := rnd
    out := { vramChanged := false, fault := none, unknown := none } }

/-- The resume test of wait mode for register `t` (40_sequencing.md R66). -/
def State.resume (t : RegIx) (s : State) : State :=
  match leastKey s.keys with
  | none => s
  | some k => { s.setReg t (BitVec.ofNat 8 k) with mode := .running, pc := s.pc + 2#16 }

/-- The opcode at the pc, big-endian, unless it does not lie wholly inside memory (40_sequencing.md R67; 20_memory.md R40,
R42: an odd pc fetches like any other). -/
def State.fetch (s : State) : Option Word :=
  if s.pc.toNat + 1 > 0xFFF then none
  else some (s.readByte s.pc.toNat ++ s.readByte (s.pc.toNat + 1))

/-- The outputs of a step, from the state it ends in (40_sequencing.md R71, R72). -/
def State.report (s : State) : State :=
  { s with out := { vramChanged := s.dirty, fault := s.fault, unknown := s.out.unknown } }

/-- The outputs of a step that finds a fault latched, which changes nothing else (40_sequencing.md R62). -/
def State.reportFaulted (s : State) : State :=
  { s with out := { vramChanged := false, fault := s.fault, unknown := none } }

/-- The outputs of a step whose instruction has run. -/
def reportResult : Result → Result
  | .next s => .next s.report
  | .fault f => .fault f
  | .refused r => .refused r

end Sys2Proof.Machine
end

