-- ==== Sys2Proof/Machine/Operands.lean ====
section
/-!
DEFINITION. The operand forms: immediate addresses, the shift source, the key operand, the block of registers and the block of
memory at `I` (30_encoding.md R52; 44_memory_index.md).
-/

namespace Sys2Proof.Machine

/-- `zext_16(nnn)` (30_encoding.md R52). -/
def zextAddr (nnn : Addr) : Word := nnn.setWidth 16

/-- `zext_16` of a byte. -/
def zextByte (v : Byte) : Word := v.setWidth 16

/-- The shifted operand of `8xy6` and `8xyE` (43_alu.md R93). -/
def State.shiftOperand (s : State) (x y : RegIx) : Byte :=
  match s.cfg.shiftSource with
  | .vx => s.reg x
  | .vy => s.reg y

/-- The key `V[x]` names, where it is a key number (42_skip.md R88, 92_eei_decisions.md D13). -/
def State.keyOperand (s : State) (x : RegIx) : Option RegIx :=
  if (s.reg x).toNat > 0xF then none else some ((s.reg x).setWidth 4)

/-- The number of registers `V0` to `Vx`. -/
def blockCount (x : RegIx) : Nat := x.toNat + 1

/-- The values of `V0` to `Vx`, in order (44_memory_index.md R107). -/
def State.regBlock (s : State) (x : RegIx) : List Byte := s.V.toList.take (blockCount x)

/-- `V[i] <- MemRead(a + i, 1)` for `i` in 0 to `x` (44_memory_index.md R108). -/
def State.loadRegBlock (s : State) (x : RegIx) (a : Nat) : State :=
  { s with V := Vector.ofFn fun i : Fin 16 => if i.val ≤ x.toNat then s.readByte (a + i.val) else s.V[i] }

/-- Writes bytes at `I` and on, leaving `I` (44_memory_index.md R106, R107). -/
def State.storeAtIndex (s : State) (bytes : List Byte) : State :=
  { s with mem := s.mem.writeBlock s.I.toNat bytes }

/-- `if INDEX_ADVANCE: I <- (I + x + 1) mod 65536` (44_memory_index.md R107, R108; 92_eei_decisions.md D8). -/
def State.advanceIndex (s : State) (x : RegIx) : State :=
  if s.cfg.indexAdvance then s.setIndex (s.I + BitVec.ofNat 16 (blockCount x)) else s

/-- The three decimal digits of a byte, hundreds first (44_memory_index.md R106, 92_eei_decisions.md D23). -/
def bcdDigits (v : Byte) : List Byte :=
  [BitVec.ofNat 8 (v.toNat / 100), BitVec.ofNat 8 (v.toNat / 10 % 10), BitVec.ofNat 8 (v.toNat % 10)]

/-- The address of the glyph of a digit: five bytes a glyph from `GLYPH_BASE`, by the low nibble (44_memory_index.md R105,
92_eei_decisions.md D4). -/
def State.glyphAddress (s : State) (v : Byte) : Word :=
  BitVec.ofNat 16 (s.cfg.glyphBase.toNat + 5 * (v &&& 0x0F#8).toNat)

end Sys2Proof.Machine
end

