-- ==== Sys2Proof/Machine/Flags.lean ====
section
/-!
DEFINITION. Every flag computation of the arithmetic instructions, each giving the result and the flag from values read before
any write, computed on unbounded integers and reduced (43_alu.md R90), and the writeback of both (43_alu.md R92). The collision
flag of `Dxyn` is in Machine/Display.lean.
-/

namespace Sys2Proof.Machine

/-- A flag as the byte `VF` receives: 1 or 0. -/
def flagByte (f : Bool) : Byte := if f then 0x01#8 else 0x00#8

/-- Sum modulo 256 and carry: the 9-bit sum exceeds 255 (43_alu.md R98). -/
def addCarry (a b : Byte) : Byte × Bool :=
  (BitVec.ofNat 8 (a.toNat + b.toNat), decide (a.toNat + b.toNat > 255))

/-- Difference modulo 256 and no-borrow: the minuend is strictly greater (43_alu.md R99). -/
def subNoBorrow (a b : Byte) : Byte × Bool :=
  (BitVec.ofNat 8 (a.toNat + 256 - b.toNat), decide (a.toNat > b.toNat))

/-- Right shift by one and the bit shifted out, bit 0 (43_alu.md R100). -/
def shiftRightOut (src : Byte) : Byte × Bool := (src >>> 1, src.getLsbD 0)

/-- Left shift by one and the bit shifted out, bit 7 (43_alu.md R102). -/
def shiftLeftOut (src : Byte) : Byte × Bool := (src <<< 1, src.getLsbD 7)

/-- `writeback(x, r, f)`: result and flag in the order `FLAG_ORDER` gives (43_alu.md R92). -/
def State.writeback (s : State) (x : RegIx) (rf : Byte × Bool) : State :=
  match s.cfg.flagOrder with
  | .flagLast => (s.setReg x rf.1).setReg VF (flagByte rf.2)
  | .flagFirst => (s.setReg VF (flagByte rf.2)).setReg x rf.1

end Sys2Proof.Machine
end

