-- ==== Sys2Proof/Machine/Display.lean ====
section
/-!
DEFINITION. The framebuffer and the drawing of a sprite by XOR with collision (10_state.md R24; 45_io.md R110).
-/

namespace Sys2Proof.Machine

/-- Every pixel unlit. -/
def blankFramebuffer : Framebuffer := Vector.replicate 32 0#64

/-- `fb[px][py]` (10_state.md R24). -/
def Framebuffer.pixel (fb : Framebuffer) (px : Fin 64) (py : Fin 32) : Bool := fb[py].getLsbD px.val

/-- `fb[px][py] <- fb[px][py] ^ 1`. -/
def Framebuffer.toggle (fb : Framebuffer) (px : Fin 64) (py : Fin 32) : Framebuffer :=
  fb.set py.val (fb[py] ^^^ (1#64 <<< px.val))

/-- Column `col` of a sprite row drawn at column `x0`, wrapped to the opposite edge (45_io.md R110). -/
def spriteColumn (x0 col : Nat) : Fin 64 := Fin.ofNat 64 (x0 + col)

/-- Row `r` of a sprite drawn at row `y0`, wrapped to the opposite edge (45_io.md R110). -/
def spriteRow (y0 r : Nat) : Fin 32 := Fin.ofNat 32 (y0 + r)

/-- One sprite bit: a 1 toggles its pixel and collides where the pixel was lit; a 0 leaves it (45_io.md R110). -/
def drawBit (bit : Bool) (px : Fin 64) (py : Fin 32) (acc : Framebuffer × Bool) : Framebuffer × Bool :=
  match bit with
  | true => (acc.1.toggle px py, acc.2 || acc.1.pixel px py)
  | false => acc

/-- The eight bits of a sprite row from column `x0` on screen row `py`, bit 7 first (45_io.md R110, 92_eei_decisions.md
D17). -/
def drawRow (b : Byte) (x0 : Nat) (py : Fin 32) (acc : Framebuffer × Bool) : Framebuffer × Bool :=
  (List.range 8).foldl (fun acc col => drawBit (b.getLsbD (7 - col)) (spriteColumn x0 col) py acc) acc

/-- The rows of a sprite, the first being row `r` of it, with origin `(x0, y0)` (45_io.md R110). -/
def drawRows : List Byte → Nat → Nat → Nat → Framebuffer × Bool → Framebuffer × Bool
  | [], _, _, _, acc => acc
  | b :: bs, x0, y0, r, acc => drawRows bs x0 y0 (r + 1) (drawRow b x0 (spriteRow y0 r) acc)

/-- Draws a sprite of the given bytes with its origin at `(vx mod 64, vy mod 32)`: the framebuffer and whether a lit pixel was
turned off (45_io.md R110). -/
def Framebuffer.drawSprite (fb : Framebuffer) (vx vy : Byte) (rows : List Byte) : Framebuffer × Bool :=
  drawRows rows (vx.toNat % 64) (vy.toNat % 32) 0 (fb, false)

/-- The framebuffer replaced, which the step reports as touched whether or not a pixel changed (10_state.md R25). -/
def State.setFramebuffer (s : State) (fb : Framebuffer) : State := { s with fb := fb, dirty := true }

end Sys2Proof.Machine
end

