-- ==== Sys2Proof/Machine/Alu.lean ====
section
/-!
DEFINITION. The meanings of the register load and arithmetic instructions (43_alu.md).
-/

namespace Sys2Proof.Machine

/-- `6xkk` Load immediate (43_alu.md R94). -/
def execLdImm (x : RegIx) (kk : Byte) (s : State) : Result := (s.setReg x kk).finish .next

/-- `7xkk` Add immediate, with no flag (43_alu.md R95, R91). -/
def execAddImm (x : RegIx) (kk : Byte) (s : State) : Result :=
  (s.setReg x (addCarry (s.reg x) kk).1).finish .next

/-- `8xy0` Set (43_alu.md R96). -/
def execLdReg (x y : RegIx) (s : State) : Result := (s.setReg x (s.reg y)).finish .next

/-- `8xy1` Or, with no flag (43_alu.md R97, R91). -/
def execOrReg (x y : RegIx) (s : State) : Result := (s.setReg x (s.reg x ||| s.reg y)).finish .next

/-- `8xy2` And, with no flag (43_alu.md R97, R91). -/
def execAndReg (x y : RegIx) (s : State) : Result := (s.setReg x (s.reg x &&& s.reg y)).finish .next

/-- `8xy3` Xor, with no flag (43_alu.md R97, R91). -/
def execXorReg (x y : RegIx) (s : State) : Result := (s.setReg x (s.reg x ^^^ s.reg y)).finish .next

/-- `8xy4` Add with carry (43_alu.md R98). -/
def execAddReg (x y : RegIx) (s : State) : Result :=
  (s.writeback x (addCarry (s.reg x) (s.reg y))).finish .next

/-- `8xy5` Subtract (43_alu.md R99). -/
def execSub (x y : RegIx) (s : State) : Result :=
  (s.writeback x (subNoBorrow (s.reg x) (s.reg y))).finish .next

/-- `8xy6` Shift right (43_alu.md R100). -/
def execShr (x y : RegIx) (s : State) : Result :=
  (s.writeback x (shiftRightOut (s.shiftOperand x y))).finish .next

/-- `8xy7` Reverse subtract (43_alu.md R101). -/
def execSubn (x y : RegIx) (s : State) : Result :=
  (s.writeback x (subNoBorrow (s.reg y) (s.reg x))).finish .next

/-- `8xyE` Shift left (43_alu.md R102). -/
def execShl (x y : RegIx) (s : State) : Result :=
  (s.writeback x (shiftLeftOut (s.shiftOperand x y))).finish .next

end Sys2Proof.Machine
end

