-- ==== Sys2Proof/Machine/Control.lean ====
section
/-!
DEFINITION. The meanings of the control instructions (41_control.md) and of the sentinel of the decode gap
(40_sequencing.md R69).
-/

namespace Sys2Proof.Machine

/-- `00E0` Clear (41_control.md R78). -/
def execCls (s : State) : Result := (s.setFramebuffer blankFramebuffer).finish .next

/-- `00EE` Return (41_control.md R79). -/
def execRet (s : State) : Result :=
  match s.pop with
  | none => s.raise (.stackUnderflow s.pc)
  | some (a, t) => t.finish (.jump a)

/-- `1nnn` Jump (41_control.md R80). -/
def execJp (nnn : Addr) (s : State) : Result := s.finish (.jump (zextAddr nnn))

/-- `2nnn` Call (41_control.md R81). -/
def execCall (nnn : Addr) (s : State) : Result :=
  match s.push (s.pc + 2#16) with
  | none => s.raise (.stackOverflow s.pc)
  | some t => t.finish (.jump (zextAddr nnn))

/-- `Bnnn` Jump with V0 offset; the sum is not reduced to 12 bits (41_control.md R82). -/
def execJpV0 (nnn : Addr) (s : State) : Result := s.finish (.jump (zextAddr nnn + zextByte (s.reg V0)))

/-- The sentinel: a no-op that advances and reports the opcode (40_sequencing.md R69). -/
def execUnknown (op : Word) (s : State) : Result :=
  { s with out := { s.out with unknown := some op } }.finish .next

end Sys2Proof.Machine
end

