-- ==== Sys2Proof/Machine/Io.lean ====
section
/-!
DEFINITION. The meanings of the I/O instructions: random, draw, timers and key wait (45_io.md).
-/

namespace Sys2Proof.Machine

/-- `Cxkk` Random: the random input of this step under the mask (45_io.md R109). -/
def execRnd (x : RegIx) (kk : Byte) (s : State) : Result := (s.setReg x (s.rndIn &&& kk)).finish .next

/-- `Dxyn` Draw sprite: the origin is read before `VF` is written (45_io.md R110). -/
def execDrw (x y n : BitVec 4) (s : State) : Result :=
  match outOfRange s.I n.toNat with
  | some a => s.raise (.memOutOfRange a)
  | none =>
    let drawn := s.fb.drawSprite (s.reg x) (s.reg y) (s.mem.readBlock s.I.toNat n.toNat)
    ((s.setFramebuffer drawn.1).setReg VF (flagByte drawn.2)).finish .next

/-- `Fx07` Get delay timer (45_io.md R111). -/
def execLdVDt (x : RegIx) (s : State) : Result := (s.setReg x s.DT).finish .next

/-- `Fx15` Set delay timer (45_io.md R112). -/
def execLdDtV (x : RegIx) (s : State) : Result := { s with DT := s.reg x }.finish .next

/-- `Fx18` Set sound timer (45_io.md R113). -/
def execLdStV (x : RegIx) (s : State) : Result := { s with ST := s.reg x }.finish .next

/-- `Fx0A` Wait for key: enters wait mode and stays at this instruction (45_io.md R114). -/
def execLdVK (x : RegIx) (s : State) : Result := { s with mode := .awaitingKey x }.finish (.jump s.pc)

end Sys2Proof.Machine
end

