-- ==== Sys2Proof/Machine/MemIndex.lean ====
section
/-!
DEFINITION. The meanings of the memory and index instructions (44_memory_index.md).
-/

namespace Sys2Proof.Machine

/-- `Annn` Load index (44_memory_index.md R103). -/
def execLdI (nnn : Addr) (s : State) : Result := (s.setIndex (zextAddr nnn)).finish .next

/-- `Fx1E` Add to index, modulo 65536 and with no flag (44_memory_index.md R104). -/
def execAddI (x : RegIx) (s : State) : Result := (s.setIndex (s.I + zextByte (s.reg x))).finish .next

/-- `Fx29` Load hex glyph address (44_memory_index.md R105). -/
def execLdF (x : RegIx) (s : State) : Result := (s.setIndex (s.glyphAddress (s.reg x))).finish .next

/-- `Fx33` Store BCD (44_memory_index.md R106). -/
def execLdB (x : RegIx) (s : State) : Result :=
  match outOfRange s.I 3 with
  | some a => s.raise (.memOutOfRange a)
  | none => (s.storeAtIndex (bcdDigits (s.reg x))).finish .next

/-- `Fx55` Store registers (44_memory_index.md R107). -/
def execLdMemV (x : RegIx) (s : State) : Result :=
  match outOfRange s.I (blockCount x) with
  | some a => s.raise (.memOutOfRange a)
  | none => ((s.storeAtIndex (s.regBlock x)).advanceIndex x).finish .next

/-- `Fx65` Load registers (44_memory_index.md R108). -/
def execLdVMem (x : RegIx) (s : State) : Result :=
  match outOfRange s.I (blockCount x) with
  | some a => s.raise (.memOutOfRange a)
  | none => ((s.loadRegBlock x s.I.toNat).advanceIndex x).finish .next

end Sys2Proof.Machine
end

