-- ==== Sys2Proof/Machine/Skip.lean ====
section
/-!
DEFINITION. The meanings of the conditional skips (42_skip.md).
-/

namespace Sys2Proof.Machine

/-- What every conditional skip does with its condition (42_skip.md R83). -/
def State.skipIf (s : State) (c : Bool) : Result := s.finish (if c then .skip else .next)

/-- `3xkk` Skip if equal to immediate (42_skip.md R84). -/
def execSeImm (x : RegIx) (kk : Byte) (s : State) : Result := s.skipIf (s.reg x == kk)

/-- `4xkk` Skip if not equal to immediate (42_skip.md R85). -/
def execSneImm (x : RegIx) (kk : Byte) (s : State) : Result := s.skipIf (s.reg x != kk)

/-- `5xy0` Skip if registers equal (42_skip.md R86). -/
def execSeReg (x y : RegIx) (s : State) : Result := s.skipIf (s.reg x == s.reg y)

/-- `9xy0` Skip if registers not equal (42_skip.md R87). -/
def execSneReg (x y : RegIx) (s : State) : Result := s.skipIf (s.reg x != s.reg y)

/-- `Ex9E` Skip if key pressed (42_skip.md R88). -/
def execSkp (x : RegIx) (s : State) : Result :=
  match s.keyOperand x with
  | none => s.raise (.keyIndexOutOfRange (s.reg x))
  | some k => s.skipIf (s.keyDown k)

/-- `ExA1` Skip if key not pressed (42_skip.md R89). -/
def execSknp (x : RegIx) (s : State) : Result :=
  match s.keyOperand x with
  | none => s.raise (.keyIndexOutOfRange (s.reg x))
  | some k => s.skipIf (!s.keyDown k)

end Sys2Proof.Machine
end

