-- ==== Sys2Proof/Machine/Call.lean ====
section
/-!
DEFINITION. The host's calls: the whole `step(keys_in, rnd)` of 40_sequencing.md R73, the running of any call, the choice of the
next one, and the placing of an instruction where the next step fetches.
-/

namespace Sys2Proof.Machine

/-- A step in mode Running: fetch, decode, execute (40_sequencing.md R67, R68, R71). -/
def State.runInstr (s : State) : Result :=
  match s.fetch with
  | none => s.raise (.fetchOutOfRange s.pc)
  | some op => exec (decode op) s

/-- `step(keys_in, rnd)`, complete (40_sequencing.md R73; the order of checks is 60_exceptions.md R117). -/
def State.stepCall (keysIn : Keys) (rnd : Byte) (s : State) : Result :=
  match s.fault with
  | some _ => .next s.reportFaulted
  | none =>
    let begun := s.beginStep keysIn rnd
    match begun.mode with
    | .awaitingKey t => .next (begun.resume t).report
    | .running => reportResult begun.runInstr

/-- Runs one host call (40_sequencing.md R59). -/
def State.runCall (c : HostCall) (s : State) : Result :=
  match c with
  | .step keysIn rnd => s.stepCall keysIn rnd
  | .tick => .next s.tickTimers
  | .load bytes => .next (s.loadRom bytes)

/-- The host's next call and the state it is made in: the first of the script, or, where the script is empty, a `step` with
free inputs after a free number of ticks (40_sequencing.md R60, R74; 70_reset_and_hazards.md R133). -/
def State.takeCall (s : State) : HostCall × State :=
  match s.script with
  | c :: rest => (c, s.setScript rest)
  | [] =>
    (.step (Config.freeKeys s.draws) (Config.freeRnd s.draws),
      (s.tickMany (Config.freeTicks s.draws)).setDraws (s.draws + 1))

/-- Makes the host's next call. -/
def State.nextCall (s : State) : Result := s.takeCall.2.runCall s.takeCall.1

/-- Whether a call is a `step`. -/
def HostCall.isStep : HostCall → Bool
  | .step _ _ => true
  | .tick => false
  | .load _ => false

/-- Puts an opcode where the next step fetches, and makes that next call a step that fetches: the pc inside memory, no wait
mode, no fault latched, no `tick` or `load` before it (assumption log 4). -/
def State.placeWord (s : State) (op : Word) : State :=
  let pc := if s.pc.toNat + 1 > 0xFFF then 0x0200#16 else s.pc
  { s with
    mem := (s.mem.write pc.toNat (highByte op)).write (pc.toNat + 1) (lowByte op)
    pc := pc
    mode := .running
    fault := none
    script := s.script.dropWhile fun c => !c.isStep }

end Sys2Proof.Machine
end

