-- ==== Sys2Proof/Machine/Step.lean ====
section
/-!
DEFINITION. One transition of the machine, the host's next call (40_sequencing.md R59, R60), and the placing of an instruction
for the next step to fetch.
-/

namespace Sys2Proof.Machine

/-- One transition of the whole state: the host's next call. -/
def step (s : State) : Host.Outcome State Fault Refusal := s.nextCall

/-- `s` with the instruction of a row of the opcode table where step fetches its next instruction. -/
def State.withFetchWord (s : State) (nbits w : Nat) : State := s.placeWord (tableWord nbits w)

end Sys2Proof.Machine
end

