-- ==== Sys2Proof/Safety.lean ====
section
/-!
DEFINITION. What claims are stated in: the parts of State and frames over them, the ends of a run (40_sequencing.md R76), and the
invariants that every step keeps.
-/

namespace Sys2Proof.Machine

/-! ## Frames -/

/-- One part of the state, as finely as claims speak of it: every register, every byte of memory and every stack entry has
a part of its own. -/
inductive Part where
  | reg (r : RegIx)
  | byte (a : Nat)
  | index
  | pc
  | sp
  | entry (j : Fin 16)
  | delay
  | sound
  | fb
  | dirty
  | keys
  | mode
  | fault
  | cfg
  | rndIn
  | out
  | script
  | draws
  deriving DecidableEq, Repr

/-- The part reads the same in both states. -/
def Part.same (p : Part) (s t : State) : Prop :=
  match p with
  | .reg r => t.reg r = s.reg r
  | .byte a => t.readByte a = s.readByte a
  | .index => t.I = s.I
  | .pc => t.pc = s.pc
  | .sp => t.sp = s.sp
  | .entry j => t.stack[j] = s.stack[j]
  | .delay => t.DT = s.DT
  | .sound => t.ST = s.ST
  | .fb => t.fb = s.fb
  | .dirty => t.dirty = s.dirty
  | .keys => t.keys = s.keys
  | .mode => t.mode = s.mode
  | .fault => t.fault = s.fault
  | .cfg => t.cfg = s.cfg
  | .rndIn => t.rndIn = s.rndIn
  | .out => t.out = s.out
  | .script => t.script = s.script
  | .draws => t.draws = s.draws

/-- THE FRAME: every part but those listed reads the same in both states. -/
def SameBut (changed : List Part) (s t : State) : Prop := ∀ p, p ∉ changed → p.same s t

/-- The `n` bytes of memory from `a`. -/
def bytesFrom (a n : Nat) : List Part := (List.range n).map fun k => Part.byte (a + k)

/-- `t` is `s` with the fatal fault `f` taken: latched, `dirty` 0, everything else as it was (40_sequencing.md R71, R73). -/
def TakesFault (f : Fault) (s t : State) : Prop :=
  t.fault = some f ∧ t.dirty = false ∧ SameBut [.fault, .dirty] s t

/-- What a flag-setting writeback of the result `r` and the flag `f` to register `x` leaves in the registers, in either order of
writing (43_alu.md R92). -/
def FlagWritten (s t : State) (x : RegIx) (r f : Nat) : Prop :=
  (x ≠ VF → (t.reg x).toNat = r ∧ (t.reg VF).toNat = f) ∧
    (x = VF → (t.reg VF).toNat = match s.cfg.flagOrder with | .flagLast => f | .flagFirst => r)

/-- The bit a sprite of the given rows with its origin at `(x0, y0)` lays over a pixel, wrapping at the edges: the pixel's
distance from the origin, to the right and down, picks the bit (45_io.md R110). -/
def spriteBit (rows : List Byte) (x0 y0 : Nat) (px : Fin 64) (py : Fin 32) : Bool :=
  let col := (px.val + 64 - x0) % 64
  let row := (py.val + 32 - y0) % 32
  decide (col < 8) && decide (row < rows.length) && (rows.getD row 0x00#8).getLsbD (7 - col)

/-- The `n` bytes of memory from `I`, in order. -/
def State.indexBytes (s : State) (n : Nat) : List Byte := (List.range n).map fun k => s.readByte (s.I.toNat + k)

/-- The registers an instruction may write: its destination, and `VF` where it has a flag side effect (10_state.md R18). -/
def writesReg (i : Instr) (r : RegIx) : Prop :=
  match i with
  | .ldImm x _ => r = x
  | .addImm x _ => r = x
  | .ldReg x _ => r = x
  | .orReg x _ => r = x
  | .andReg x _ => r = x
  | .xorReg x _ => r = x
  | .addReg x _ => r = x ∨ r = VF
  | .sub x _ => r = x ∨ r = VF
  | .shr x _ => r = x ∨ r = VF
  | .subn x _ => r = x ∨ r = VF
  | .shl x _ => r = x ∨ r = VF
  | .ldVMem x => r.toNat ≤ x.toNat
  | .rnd x _ => r = x
  | .drw _ _ _ => r = VF
  | .ldVDt x => r = x
  | .cls => False
  | .ret => False
  | .jp _ => False
  | .call _ => False
  | .jpV0 _ => False
  | .seImm _ _ => False
  | .sneImm _ _ => False
  | .seReg _ _ => False
  | .sneReg _ _ => False
  | .skp _ => False
  | .sknp _ => False
  | .ldI _ => False
  | .addI _ => False
  | .ldF _ => False
  | .ldB _ => False
  | .ldMemV _ => False
  | .ldDtV _ => False
  | .ldStV _ => False
  | .ldVK _ => False
  | .unknown _ => False

/-- How many bytes of memory from `I` an instruction stores to (20_memory.md R36). -/
def storeCount (i : Instr) : Nat :=
  match i with
  | .ldB _ => 3
  | .ldMemV x => x.toNat + 1
  | .cls => 0
  | .ret => 0
  | .jp _ => 0
  | .call _ => 0
  | .jpV0 _ => 0
  | .seImm _ _ => 0
  | .sneImm _ _ => 0
  | .seReg _ _ => 0
  | .sneReg _ _ => 0
  | .skp _ => 0
  | .sknp _ => 0
  | .ldImm _ _ => 0
  | .addImm _ _ => 0
  | .ldReg _ _ => 0
  | .orReg _ _ => 0
  | .andReg _ _ => 0
  | .xorReg _ _ => 0
  | .addReg _ _ => 0
  | .sub _ _ => 0
  | .shr _ _ => 0
  | .subn _ _ => 0
  | .shl _ _ => 0
  | .ldI _ => 0
  | .addI _ => 0
  | .ldF _ => 0
  | .ldVMem _ => 0
  | .rnd _ _ => 0
  | .drw _ _ _ => 0
  | .ldVDt _ => 0
  | .ldDtV _ => 0
  | .ldStV _ => 0
  | .ldVK _ => 0
  | .unknown _ => 0

/-! ## The ends of a run (40_sequencing.md R76) -/

/-- R76 (a): a fatal fault is latched. -/
def State.isFaulted (s : State) : Prop := s.fault ≠ none

/-- R76 (b): running, with a jump to itself at the pc. -/
def State.isIdleLoop (s : State) : Prop :=
  s.mode = .running ∧ ∃ op nnn, s.fetch = some op ∧ decode op = .jp nnn ∧ nnn.toNat = s.pc.toNat

/-- R76 (c): waiting for a key. -/
def State.isWaiting (s : State) : Prop := ∃ t, s.mode = .awaitingKey t

/-! ## Invariants -/

/-- Memory keeps its canonical form and lies inside 0x000 to 0xFFF (20_memory.md R34). -/
def State.MemOk (s : State) : Prop := s.mem.wf

/-- A latched fault is still explained by the state that raised it, which it froze: its info is what 60_exceptions.md R116
says, the machine is in mode Running, and `dirty` is 0. -/
def State.FaultOk (s : State) : Prop :=
  ∀ f, s.fault = some f →
    s.mode = .running ∧ s.dirty = false ∧
      match f with
      | .stackOverflow p => p = s.pc ∧ s.sp.val = 16
      | .stackUnderflow p => p = s.pc ∧ s.sp.val = 0
      | .memOutOfRange a => a.toNat = max s.I.toNat 0x1000
      | .fetchOutOfRange p => p = s.pc ∧ 0xFFF < s.pc.toNat + 1
      | .keyIndexOutOfRange v => 0xF < v.toNat

/-- The pc stays where its arithmetic never wraps: at most 0x10FE, inside memory while waiting for a key, and every occupied
stack entry at most 0x1000 (40_sequencing.md R70). -/
def State.PcOk (s : State) : Prop :=
  s.pc.toNat ≤ 0x10FE ∧ (s.mode ≠ .running → s.pc.toNat ≤ 0xFFE) ∧
    ∀ j : Fin 16, j.val < s.sp.val → (s.stack[j]).toNat ≤ 0x1000

end Sys2Proof.Machine
end

