-- ==== Sys2Proof/Certificates/Slice0/Obligations.lean ====
section
/-!
DEFINITION. The statements for the provers, from the numbered rules of spec/. A docstring names the part of the spec a statement
formalises; where a clause rests on a choice the spec marks as its own (a decision D<n>, a derivation, general knowledge), it
says so. No statement rests on the value of a free input or on the reset value of a field of the model's own.
-/

open Sys2Proof Sys2Proof.Machine

/-! ## Reset and the step machine -/

/-- What power-on reset leaves (10_state.md, the table of section 11). Only `pc` is the source's value; the zeros are the spec's
decision D2 and the default image decision D3 (assumption log 1, 2). -/
def Obligations.ResetHoldsTheTableValues : Prop :=
  State.reset.pc.toNat = 0x200 ∧ (∀ r, State.reset.reg r = 0x00#8) ∧ State.reset.I.toNat = 0 ∧
    State.reset.sp.val = 0 ∧ (∀ j : Fin 16, (State.reset.stack[j]).toNat = 0) ∧
    State.reset.DT.toNat = 0 ∧ State.reset.ST.toNat = 0 ∧
    (∀ px py, State.reset.fb.pixel px py = false) ∧ State.reset.dirty = false ∧
    (∀ k, State.reset.keyDown k = false) ∧ State.reset.mode = .running ∧ State.reset.fault = none ∧
    (∀ a, State.reset.readByte a = 0x00#8)

/-- Reset meets every invariant below, at the default parameters and, for memory, at any `LOW_MEM_IMAGE`. -/
def Obligations.ResetMeetsTheInvariants : Prop :=
  State.reset.MemOk ∧ State.reset.FaultOk ∧ State.reset.PcOk ∧ ∀ c, (State.resetWith c).MemOk

/-- A step before any load fetches 0x0000, the sentinel, and advances (70_reset_and_hazards.md, Boot: the spec's derivation). -/
def Obligations.FirstStepFindsTheSentinel : Prop :=
  ∃ t, step State.reset = .next t ∧ t.pc.toNat = 0x202 ∧ t.out.unknown = some 0x0000#16 ∧
    t.fault = none ∧ (∀ r, t.reg r = 0x00#8) ∧ t.draws = 1

/-- A STEP RUNS THE DECODED INSTRUCTION: with no fault, in mode Running and with the two bytes at the pc inside memory, a
transition is exec of the instruction they decode to, in the state the step begins (keys latched, dirty cleared, random byte
taken), and then the outputs are reported; the call and its inputs come from the script, and where that is empty the inputs
are free and a free number of ticks comes first (40_sequencing.md, sections 1 and 2; assumption log 3). -/
def Obligations.StepRunsTheDecodedInstruction : Prop :=
  ∀ (s : State) (i : Instr), s.fault = none → s.mode = .running → s.pc.toNat + 1 ≤ 0xFFF →
    decode (s.readByte s.pc.toNat ++ s.readByte (s.pc.toNat + 1)) = i →
    (∀ k r rest, s.script = .step k r :: rest →
      step s = reportResult (exec i ((s.setScript rest).beginStep k r))) ∧
    (s.script = [] →
      step s = reportResult (exec i
        (((s.tickMany (Config.freeTicks s.draws)).setDraws (s.draws + 1)).beginStep
          (Config.freeKeys s.draws) (Config.freeRnd s.draws))))

/-- The opcode at the pc has its first byte in the high half (20_memory.md R40), at an odd pc like at any other: that odd pcs are
fetched as they stand is the spec's choice, not the source's (20_memory.md R42, decision D11; assumption log 17). -/
def Obligations.FetchIsBigEndian : Prop :=
  ∀ s : State, s.pc.toNat + 1 ≤ 0xFFF →
    ∃ op, s.fetch = some op ∧
      op.toNat = (s.readByte s.pc.toNat).toNat * 256 + (s.readByte (s.pc.toNat + 1)).toNat ∧
      op.extractLsb' 8 8 = s.readByte s.pc.toNat ∧ op.extractLsb' 0 8 = s.readByte (s.pc.toNat + 1)

/-- A fetch that does not lie wholly inside memory takes FetchOutOfRange, with the pc as info; the latch, the cleared dirty flag
and the step's own inputs and outputs are all that change (40_sequencing.md, section 2; decision D10). -/
def Obligations.FetchOutsideMemoryFaults : Prop :=
  ∀ (s : State) (k : Keys) (r : Byte) (rest : List HostCall), s.script = .step k r :: rest → s.fault = none →
    s.mode = .running → 0xFFF < s.pc.toNat + 1 →
    ∃ t, step s = .next t ∧ t.fault = some (.fetchOutOfRange s.pc) ∧ t.dirty = false ∧ t.keys = k ∧ t.rndIn = r ∧
      t.out = { vramChanged := false, fault := some (.fetchOutOfRange s.pc), unknown := none } ∧ t.script = rest ∧
      SameBut [.fault, .dirty, .keys, .rndIn, .out, .script] s t

/-- A step call that finds a fault latched changes no state and reports the fault (40_sequencing.md, section 2; decision D19);
not even the keypad latch takes the snapshot. -/
def Obligations.FaultedStepChangesNothing : Prop :=
  ∀ (s : State) (f : Fault) (k : Keys) (r : Byte) (rest : List HostCall), s.script = .step k r :: rest →
    s.fault = some f →
    ∃ t, step s = .next t ∧ t.out = { vramChanged := false, fault := some f, unknown := none } ∧ t.script = rest ∧
      SameBut [.out, .script] s t

/-- A latched fault is never cleared, whatever the host calls: every transition keeps it, and keeps everything but the timers
(which ticks count), memory from 0x200 on (which a load writes) and the model's own record of calls and outputs
(60_exceptions.md, section 1; decision D19). -/
def Obligations.FaultStaysLatched : Prop :=
  ∀ (s : State) (f : Fault), s.MemOk → s.fault = some f →
    ∃ t, step s = .next t ∧ t.fault = some f ∧
      ∀ p : Part, (∀ a, 0x200 ≤ a → p ≠ .byte a) → p ∉ [.delay, .sound, .out, .script, .draws] → p.same s t

/-- In wait mode with no key pressed a step changes nothing but the latch and the dirty flag, and the model's own record of
inputs and outputs (40_sequencing.md, section 2; decision D28). -/
def Obligations.WaitingStepWithoutAKeyStays : Prop :=
  ∀ (s : State) (x : RegIx) (r : Byte) (rest : List HostCall), s.script = .step 0x0000#16 r :: rest → s.fault = none →
    s.mode = .awaitingKey x →
    ∃ t, step s = .next t ∧ t.keys = 0x0000#16 ∧ t.dirty = false ∧
      t.out = { vramChanged := false, fault := none, unknown := none } ∧
      SameBut [.keys, .dirty, .rndIn, .out, .script] s t

/-- In wait mode with a key pressed a step stores the least pressed key in the target register, returns to Running and advances
the pc past the waiting instruction; it runs no instruction (40_sequencing.md, section 2; decisions D14, D15). -/
def Obligations.WaitingStepTakesTheLeastKey : Prop :=
  ∀ (s : State) (x j : RegIx) (k : Keys) (r : Byte) (rest : List HostCall), s.script = .step k r :: rest →
    s.fault = none → s.mode = .awaitingKey x → k.getLsbD j.toNat = true →
    (∀ m : RegIx, m.toNat < j.toNat → k.getLsbD m.toNat = false) →
    ∃ t, step s = .next t ∧ (t.reg x).toNat = j.toNat ∧ t.mode = .running ∧ t.pc = s.pc + 2#16 ∧ t.keys = k ∧
      t.dirty = false ∧ t.out = { vramChanged := false, fault := none, unknown := none } ∧
      SameBut [.reg x, .mode, .pc, .keys, .dirty, .rndIn, .out, .script] s t

/-- Every step call that finds no fault latches its snapshot, and ends with the dirty flag set exactly when it executed `00E0`,
or `Dxyn` without a fault; its outputs are the flag and the latch (40_sequencing.md, section 2; decisions D16, D28). -/
def Obligations.StepLatchesKeysAndReportsDirty : Prop :=
  ∀ (s t : State) (k : Keys) (r : Byte) (rest : List HostCall), s.script = .step k r :: rest → s.fault = none →
    step s = .next t →
    t.keys = k ∧ t.out.vramChanged = t.dirty ∧ t.out.fault = t.fault ∧
      (t.dirty = true ↔ s.mode = .running ∧ ∃ op, s.fetch = some op ∧
        (decode op = .cls ∨
          ∃ x y n, decode op = .drw x y n ∧ (n = 0x0#4 ∨ s.I.toNat + n.toNat ≤ 0x1000)))

/-- `tick_timers()` takes one from each timer that is not zero and changes nothing else, in every mode and with a fault latched
(60_exceptions.md, section 3; decision D26); the script moves on. -/
def Obligations.TickCountsBothTimersDown : Prop :=
  ∀ (s : State) (rest : List HostCall), s.script = .tick :: rest →
    ∃ t, step s = .next t ∧ t.DT.toNat = s.DT.toNat - 1 ∧ t.ST.toNat = s.ST.toNat - 1 ∧ t.script = rest ∧
      SameBut [.delay, .sound, .script] s t

/-- `load(bytes)` copies the bytes to 0x200 and on, drops without error those that would lie above 0xFFF, and changes nothing else
(40_sequencing.md, section 3; decision D25 and, for the capacity 3584, conflict C1). -/
def Obligations.LoadCopiesFrom0x200 : Prop :=
  ∀ (s : State) (bytes : List Byte) (rest : List HostCall), s.MemOk → s.script = .load bytes :: rest →
    ∃ t, step s = .next t ∧ t.script = rest ∧
      (∀ k, k < bytes.length → k < 3584 → t.readByte (0x200 + k) = bytes.getD k 0x00#8) ∧
      SameBut (.script :: bytesFrom 0x200 (min bytes.length 3584)) s t

/-- A jump to itself is an idle loop: a step call there changes nothing but the keypad latch, the dirty flag and the model's own
record of inputs and outputs (40_sequencing.md, section 4: the spec's derivation). -/
def Obligations.IdleLoopStepChangesNothing : Prop :=
  ∀ (s : State) (k : Keys) (r : Byte) (rest : List HostCall), s.script = .step k r :: rest → s.fault = none →
    s.isIdleLoop →
    ∃ t, step s = .next t ∧ t.isIdleLoop ∧ t.keys = k ∧ t.dirty = false ∧
      SameBut [.keys, .dirty, .rndIn, .out, .script] s t

/-- The mode is written by `Fx0A`, to waiting for register `x`, and by the resume of a step with a key pressed, to Running, and by
nothing else: what it is after a scripted step call follows from what it was, the snapshot and the instruction fetched, and a tick
and a load leave it (10_state.md R27). That a step call that finds a fault leaves it too is the spec's choice (decision D19;
assumption log 5, 25), and so is that a fetch outside memory is a fault, after which the mode is Running still (decision D10;
assumption log 16). -/
def Obligations.ModeFollowsWaitAndResume : Prop :=
  (∀ (s : State) (k : Keys) (r : Byte) (rest : List HostCall), s.script = .step k r :: rest → s.fault = none →
    ∃ t, step s = .next t ∧ t.mode =
      match s.mode with
      | .awaitingKey x => if k = 0x0000#16 then .awaitingKey x else .running
      | .running =>
        match s.fetch.map decode with
        | some (.ldVK x) => .awaitingKey x
        | _ => .running) ∧
  (∀ (s : State) (c : HostCall) (rest : List HostCall), s.script = c :: rest →
    (s.fault ≠ none ∨ c = .tick ∨ ∃ bytes, c = .load bytes) → ∃ t, step s = .next t ∧ t.mode = s.mode)

/-! ## Control (41_control.md) -/

/-- `00E0` clears every pixel, sets the dirty flag (of a blank screen too, decision D16) and advances. -/
def Obligations.ClsClearsEveryPixel : Prop :=
  ∀ s : State, ∃ t, exec .cls s = .next t ∧ (∀ px py, t.fb.pixel px py = false) ∧ t.dirty = true ∧
    t.pc = s.pc + 2#16 ∧ SameBut [.fb, .dirty, .pc] s t

/-- `00EE` returns to the popped address, which keeps its stack entry, and takes StackUnderflow on an empty stack; no other word is
a return (41_control.md; decision D12 for what `sp` counts, D18 and D19 for the fault). -/
def Obligations.RetPopsTheReturnAddress : Prop :=
  (∀ op, decode op = .ret ↔ op.toNat = 0x00EE) ∧
  (∀ (s : State) (h : 0 < s.sp.val), ∃ t, exec .ret s = .next t ∧ t.sp.val = s.sp.val - 1 ∧
    t.pc = s.stack[s.sp.val - 1] ∧ SameBut [.sp, .pc] s t) ∧
  (∀ s : State, s.sp.val = 0 → ∃ t, exec .ret s = .next t ∧ TakesFault (.stackUnderflow s.pc) s t)

/-- `1nnn` sets the pc to the zero-extended `nnn` and changes nothing else (41_control.md R80), for an odd `nnn` like for any other:
that an odd target is taken as it stands is the spec's choice (decision D11; assumption log 17). -/
def Obligations.JpGoesToTheAddress : Prop :=
  (∀ op : Word, op.toNat / 4096 = 0x1 → decode op = .jp (op.extractLsb' 0 12)) ∧
  (∀ (nnn : Addr) (s : State), ∃ t, exec (.jp nnn) s = .next t ∧ t.pc.toNat = nnn.toNat ∧ SameBut [.pc] s t)

/-- `2nnn` pushes the address of the next instruction and goes to `nnn`, or takes StackOverflow when 16 entries are occupied
(41_control.md; decisions D12, D33). -/
def Obligations.CallPushesTheNextAddress : Prop :=
  ∀ (nnn : Addr) (s : State),
    (∀ h : s.sp.val < 16, ∃ t, exec (.call nnn) s = .next t ∧ t.stack[s.sp.val] = s.pc + 2#16 ∧
      t.sp.val = s.sp.val + 1 ∧ t.pc.toNat = nnn.toNat ∧ SameBut [.entry ⟨s.sp.val, h⟩, .sp, .pc] s t) ∧
    (s.sp.val = 16 → ∃ t, exec (.call nnn) s = .next t ∧ TakesFault (.stackOverflow s.pc) s t)

/-- A return undoes the call: from any state with the stack the call left, `00EE` goes to the instruction after the call and the
stack holds as many entries as before it (41_control.md, the control transfer model; decision D33). -/
def Obligations.RetComesBackAfterCall : Prop :=
  ∀ (nnn : Addr) (s t u : State), s.sp.val < 16 → exec (.call nnn) s = .next t → u.stack = t.stack → u.sp = t.sp →
    ∃ v, exec .ret u = .next v ∧ v.pc = s.pc + 2#16 ∧ v.sp = s.sp ∧
      ∀ j : Fin 16, j.val < s.sp.val → v.stack[j] = s.stack[j]

/-- `Bnnn` goes to `nnn` plus `V0`, unmasked (41_control.md; decision D22). -/
def Obligations.JpV0AddsV0Unmasked : Prop :=
  ∀ (nnn : Addr) (s : State), ∃ t, exec (.jpV0 nnn) s = .next t ∧
    t.pc.toNat = nnn.toNat + (s.reg V0).toNat ∧ SameBut [.pc] s t

/-- The sentinel advances, reports its opcode and changes nothing else (40_sequencing.md, section 2; decision D24). -/
def Obligations.UnknownIsANoOpThatReports : Prop :=
  ∀ (op : Word) (s : State), ∃ t, exec (.unknown op) s = .next t ∧ t.pc = s.pc + 2#16 ∧
    t.out.unknown = some op ∧ t.out.vramChanged = s.out.vramChanged ∧ t.out.fault = s.out.fault ∧
    SameBut [.pc, .out] s t

/-! ## Conditional skips (42_skip.md) -/

/-- The comparing skips advance by two widths when their condition holds and by one when not, and change nothing else (42_skip.md;
the conditions are the spec's general knowledge G1). -/
def Obligations.CompareSkipsFollowTheirCondition : Prop :=
  ∀ (x y : RegIx) (kk : Byte) (s : State),
    (∃ t, exec (.seImm x kk) s = .next t ∧
      t.pc = (if (s.reg x).toNat = kk.toNat then s.pc + 4#16 else s.pc + 2#16) ∧ SameBut [.pc] s t) ∧
    (∃ t, exec (.sneImm x kk) s = .next t ∧
      t.pc = (if (s.reg x).toNat = kk.toNat then s.pc + 2#16 else s.pc + 4#16) ∧ SameBut [.pc] s t) ∧
    (∃ t, exec (.seReg x y) s = .next t ∧
      t.pc = (if (s.reg x).toNat = (s.reg y).toNat then s.pc + 4#16 else s.pc + 2#16) ∧ SameBut [.pc] s t) ∧
    (∃ t, exec (.sneReg x y) s = .next t ∧
      t.pc = (if (s.reg x).toNat = (s.reg y).toNat then s.pc + 2#16 else s.pc + 4#16) ∧ SameBut [.pc] s t)

/-- The key skips look up the key `V[x]` in this step's snapshot, and take KeyIndexOutOfRange where `V[x]` is no key number
(42_skip.md; general knowledge G1, decision D13). -/
def Obligations.KeySkipsFollowTheKey : Prop :=
  ∀ (x : RegIx) (s : State),
    ((s.reg x).toNat ≤ 0xF →
      (∃ t, exec (.skp x) s = .next t ∧
        t.pc = (if s.keys.getLsbD (s.reg x).toNat then s.pc + 4#16 else s.pc + 2#16) ∧ SameBut [.pc] s t) ∧
      (∃ t, exec (.sknp x) s = .next t ∧
        t.pc = (if s.keys.getLsbD (s.reg x).toNat then s.pc + 2#16 else s.pc + 4#16) ∧ SameBut [.pc] s t)) ∧
    (0xF < (s.reg x).toNat →
      (∃ t, exec (.skp x) s = .next t ∧ TakesFault (.keyIndexOutOfRange (s.reg x)) s t) ∧
      (∃ t, exec (.sknp x) s = .next t ∧ TakesFault (.keyIndexOutOfRange (s.reg x)) s t))

/-! ## Register loads and arithmetic (43_alu.md) -/

/-- The loads, the add without carry and the logical operations write their result to `V[x]` alone, so `VF` too only where it is
`V[x]`, and advance (43_alu.md; general knowledge G1, G9, G11, decision D7). -/
def Obligations.LoadsAndLogicWriteOneRegister : Prop :=
  ∀ (x y : RegIx) (kk : Byte) (s : State),
    (∃ t, exec (.ldImm x kk) s = .next t ∧ t.reg x = kk ∧ t.pc = s.pc + 2#16 ∧ SameBut [.reg x, .pc] s t) ∧
    (∃ t, exec (.addImm x kk) s = .next t ∧ (t.reg x).toNat = ((s.reg x).toNat + kk.toNat) % 256 ∧
      t.pc = s.pc + 2#16 ∧ SameBut [.reg x, .pc] s t) ∧
    (∃ t, exec (.ldReg x y) s = .next t ∧ t.reg x = s.reg y ∧ t.pc = s.pc + 2#16 ∧ SameBut [.reg x, .pc] s t) ∧
    (∃ t, exec (.orReg x y) s = .next t ∧ (∀ b, b < 8 → (t.reg x).getLsbD b =
      ((s.reg x).getLsbD b || (s.reg y).getLsbD b)) ∧ t.pc = s.pc + 2#16 ∧ SameBut [.reg x, .pc] s t) ∧
    (∃ t, exec (.andReg x y) s = .next t ∧ (∀ b, b < 8 → (t.reg x).getLsbD b =
      ((s.reg x).getLsbD b && (s.reg y).getLsbD b)) ∧ t.pc = s.pc + 2#16 ∧ SameBut [.reg x, .pc] s t) ∧
    (∃ t, exec (.xorReg x y) s = .next t ∧ (∀ b, b < 8 → (t.reg x).getLsbD b =
      ((s.reg x).getLsbD b ^^ (s.reg y).getLsbD b)) ∧ t.pc = s.pc + 2#16 ∧ SameBut [.reg x, .pc] s t)

/-- `8xy4`: the sum modulo 256, and `VF` 1 exactly when the 9-bit sum exceeds 255; where `x` is `VF`, the parameter `FLAG_ORDER`
says which of the two it ends with (43_alu.md, the flag rule of `Add`; general knowledge G1 for the opcode, parameter D6). -/
def Obligations.AddSetsCarry : Prop :=
  (∀ op : Word, op.toNat / 4096 = 0x8 → op.toNat % 16 = 0x4 →
    decode op = .addReg (op.extractLsb' 8 4) (op.extractLsb' 4 4)) ∧
  (∀ (x y : RegIx) (s : State), ∃ t, exec (.addReg x y) s = .next t ∧
    FlagWritten s t x (((s.reg x).toNat + (s.reg y).toNat) % 256)
      (if 255 < (s.reg x).toNat + (s.reg y).toNat then 1 else 0) ∧
    t.pc = s.pc + 2#16 ∧ SameBut [.reg x, .reg VF, .pc] s t)

/-- `8xy5`: the difference modulo 256, and `VF` 1 exactly when the minuend is strictly greater before subtracting, so 0 on equal
operands (43_alu.md, the flag rule of `Sub`; general knowledge G1 for the opcode, parameter D6). -/
def Obligations.SubFlagsAStrictlyGreaterMinuend : Prop :=
  (∀ op : Word, op.toNat / 4096 = 0x8 → op.toNat % 16 = 0x5 →
    decode op = .sub (op.extractLsb' 8 4) (op.extractLsb' 4 4)) ∧
  (∀ (x y : RegIx) (s : State), ∃ t, exec (.sub x y) s = .next t ∧
    FlagWritten s t x (((s.reg x).toNat + 256 - (s.reg y).toNat) % 256)
      (if (s.reg y).toNat < (s.reg x).toNat then 1 else 0) ∧
    t.pc = s.pc + 2#16 ∧ SameBut [.reg x, .reg VF, .pc] s t)

/-- `8xy7`: the mirror of `8xy5` with the operand roles swapped (43_alu.md; general knowledge G1 for the opcode, parameter
D6). -/
def Obligations.SubnIsTheMirror : Prop :=
  (∀ op : Word, op.toNat / 4096 = 0x8 → op.toNat % 16 = 0x7 →
    decode op = .subn (op.extractLsb' 8 4) (op.extractLsb' 4 4)) ∧
  (∀ (x y : RegIx) (s : State), ∃ t, exec (.subn x y) s = .next t ∧
    FlagWritten s t x (((s.reg y).toNat + 256 - (s.reg x).toNat) % 256)
      (if (s.reg x).toNat < (s.reg y).toNat then 1 else 0) ∧
    t.pc = s.pc + 2#16 ∧ SameBut [.reg x, .reg VF, .pc] s t)

/-- The shifts halve or double the operand `SHIFT_SOURCE` names, and `VF` takes the bit shifted out (43_alu.md; general knowledge G1
for the directions, parameters D5, D6). -/
def Obligations.ShiftsFlagTheBitShiftedOut : Prop :=
  ∀ (x y : RegIx) (s : State) (v : Byte),
    v = (match s.cfg.shiftSource with | .vx => s.reg x | .vy => s.reg y) →
    (∃ t, exec (.shr x y) s = .next t ∧ FlagWritten s t x (v.toNat / 2) (v.toNat % 2) ∧
      t.pc = s.pc + 2#16 ∧ SameBut [.reg x, .reg VF, .pc] s t) ∧
    (∃ t, exec (.shl x y) s = .next t ∧ FlagWritten s t x (v.toNat * 2 % 256) (v.toNat / 128) ∧
      t.pc = s.pc + 2#16 ∧ SameBut [.reg x, .reg VF, .pc] s t)

/-! ## Memory and index (44_memory_index.md) -/

/-- `Annn` sets `I` to the zero-extended `nnn`; `I` comes to lie above 0xFFF only through `Fx1E`, `Fx29`, `Fx55` or `Fx65`
(44_memory_index.md R103). -/
def Obligations.LdISetsTheIndex : Prop :=
  (∀ op : Word, op.toNat / 4096 = 0xA → decode op = .ldI (op.extractLsb' 0 12)) ∧
  (∀ (nnn : Addr) (s : State), ∃ t, exec (.ldI nnn) s = .next t ∧ t.I.toNat = nnn.toNat ∧
    t.pc = s.pc + 2#16 ∧ SameBut [.index, .pc] s t) ∧
  (∀ (i : Instr) (s t : State), exec i s = .next t → s.I.toNat ≤ 0xFFF → 0xFFF < t.I.toNat →
    ∃ x, i = .addI x ∨ i = .ldF x ∨ i = .ldMemV x ∨ i = .ldVMem x)

/-- `Fx1E` adds to `I` modulo 65536 with no flag, and `Fx29` takes the glyph address of the low nibble (44_memory_index.md;
decisions D21, D4). -/
def Obligations.AddIAndLdFComputeTheIndex : Prop :=
  ∀ (x : RegIx) (s : State),
    (∃ t, exec (.addI x) s = .next t ∧ t.I.toNat = (s.I.toNat + (s.reg x).toNat) % 65536 ∧
      t.pc = s.pc + 2#16 ∧ SameBut [.index, .pc] s t) ∧
    (∃ t, exec (.ldF x) s = .next t ∧ t.I.toNat = (s.cfg.glyphBase.toNat + 5 * ((s.reg x).toNat % 16)) % 65536 ∧
      t.pc = s.pc + 2#16 ∧ SameBut [.index, .pc] s t)

/-- `Fx33` stores the three decimal digits of `V[x]`, hundreds at `I`, which make `V[x]` up again; `I` stays (44_memory_index.md;
decision D23). -/
def Obligations.BcdStoresTheDigits : Prop :=
  ∀ (x : RegIx) (s : State), s.MemOk → s.I.toNat + 2 ≤ 0xFFF →
    ∃ t, exec (.ldB x) s = .next t ∧
      100 * (t.readByte s.I.toNat).toNat + 10 * (t.readByte (s.I.toNat + 1)).toNat +
        (t.readByte (s.I.toNat + 2)).toNat = (s.reg x).toNat ∧
      (t.readByte s.I.toNat).toNat ≤ 2 ∧ (t.readByte (s.I.toNat + 1)).toNat ≤ 9 ∧
      (t.readByte (s.I.toNat + 2)).toNat ≤ 9 ∧
      t.pc = s.pc + 2#16 ∧ SameBut (.pc :: bytesFrom s.I.toNat 3) s t

/-- `Fx55` stores `V0` to `Vx` at `I` and on, then advances `I` by `x + 1` where `INDEX_ADVANCE` says so (44_memory_index.md; decision
D8). -/
def Obligations.StoreRegistersStoresTheBlock : Prop :=
  ∀ (x : RegIx) (s : State), s.MemOk → s.I.toNat + x.toNat ≤ 0xFFF →
    ∃ t, exec (.ldMemV x) s = .next t ∧
      (∀ q : RegIx, q.toNat ≤ x.toNat → t.readByte (s.I.toNat + q.toNat) = s.reg q) ∧
      t.I.toNat = (if s.cfg.indexAdvance then s.I.toNat + x.toNat + 1 else s.I.toNat) ∧
      t.pc = s.pc + 2#16 ∧ SameBut (.index :: .pc :: bytesFrom s.I.toNat (x.toNat + 1)) s t

/-- `Fx65` loads `V0` to `Vx` from `I` and on, then advances `I` by `x + 1` where `INDEX_ADVANCE` says so (44_memory_index.md; decision
D8). -/
def Obligations.LoadRegistersLoadsTheBlock : Prop :=
  ∀ (x : RegIx) (s : State), s.I.toNat + x.toNat ≤ 0xFFF →
    ∃ t, exec (.ldVMem x) s = .next t ∧
      (∀ q : RegIx, t.reg q = if q.toNat ≤ x.toNat then s.readByte (s.I.toNat + q.toNat) else s.reg q) ∧
      t.I.toNat = (if s.cfg.indexAdvance then s.I.toNat + x.toNat + 1 else s.I.toNat) ∧
      t.pc = s.pc + 2#16 ∧
      SameBut (.index :: .pc :: (List.range (x.toNat + 1)).map fun k => .reg (BitVec.ofNat 4 k)) s t

/-- What `Fx55` stored, `Fx65` loads back: from any state with that memory and the old `I`, whatever its registers hold, `V0` to `Vx`
are as they were (44_memory_index.md; 20_memory.md, ordering). -/
def Obligations.StoredRegistersLoadBack : Prop :=
  ∀ (x : RegIx) (s t u : State), s.MemOk → s.I.toNat + x.toNat ≤ 0xFFF → exec (.ldMemV x) s = .next t →
    u.mem = t.mem → u.I = s.I →
    ∃ v, exec (.ldVMem x) u = .next v ∧ ∀ q : RegIx, q.toNat ≤ x.toNat → v.reg q = s.reg q

/-- An access of `Dxyn`, `Fx33`, `Fx55` or `Fx65` that would touch a byte above 0xFFF takes MemOutOfRange with the lowest address out
of range, before anything is touched (20_memory.md, section 1; decision D18). -/
def Obligations.BlockOutsideMemoryFaults : Prop :=
  ∀ (x y n : BitVec 4) (a : Word) (s : State), a.toNat = max s.I.toNat 0x1000 →
    (0xFFF < s.I.toNat + 2 → ∃ t, exec (.ldB x) s = .next t ∧ TakesFault (.memOutOfRange a) s t) ∧
    (0xFFF < s.I.toNat + x.toNat → ∃ t, exec (.ldMemV x) s = .next t ∧ TakesFault (.memOutOfRange a) s t) ∧
    (0xFFF < s.I.toNat + x.toNat → ∃ t, exec (.ldVMem x) s = .next t ∧ TakesFault (.memOutOfRange a) s t) ∧
    (0 < n.toNat → 0xFFF < s.I.toNat + n.toNat - 1 →
      ∃ t, exec (.drw x y n) s = .next t ∧ TakesFault (.memOutOfRange a) s t)

/-! ## I/O (45_io.md) -/

/-- `Cxkk` takes the step's random byte under the mask, whatever the byte is (45_io.md; decision D20, general knowledge G2). -/
def Obligations.RandomIsTheInputUnderTheMask : Prop :=
  ∀ (x : RegIx) (kk : Byte) (s : State), ∃ t, exec (.rnd x kk) s = .next t ∧
    (∀ b, b < 8 → (t.reg x).getLsbD b = (s.rndIn.getLsbD b && kk.getLsbD b)) ∧
    t.pc = s.pc + 2#16 ∧ SameBut [.reg x, .pc] s t

/-- `Fx07` reads the delay timer, `Fx15` writes it and `Fx18` writes the sound timer (45_io.md; general knowledge G1). -/
def Obligations.TimersAreReadAndWritten : Prop :=
  ∀ (x : RegIx) (s : State),
    (∃ t, exec (.ldVDt x) s = .next t ∧ t.reg x = s.DT ∧ t.pc = s.pc + 2#16 ∧ SameBut [.reg x, .pc] s t) ∧
    (∃ t, exec (.ldDtV x) s = .next t ∧ t.DT = s.reg x ∧ t.pc = s.pc + 2#16 ∧ SameBut [.delay, .pc] s t) ∧
    (∃ t, exec (.ldStV x) s = .next t ∧ t.ST = s.reg x ∧ t.pc = s.pc + 2#16 ∧ SameBut [.sound, .pc] s t)

/-- `Dxyn` XORs the sprite onto the screen, every pixel wrapped by itself: each pixel after is the pixel before XOR the sprite's bit
for it, and `VF` is 1 exactly when some lit pixel met a 1 bit (45_io.md; decision D17 for the bit order and for n = 0, D16 for the
dirty flag). -/
def Obligations.DrawXorsTheSprite : Prop :=
  ∀ (x y n : BitVec 4) (s : State), n.toNat = 0 ∨ s.I.toNat + n.toNat - 1 ≤ 0xFFF →
    ∃ t, exec (.drw x y n) s = .next t ∧
      (∀ px py, t.fb.pixel px py = (s.fb.pixel px py ^^
        spriteBit (s.indexBytes n.toNat) ((s.reg x).toNat % 64) ((s.reg y).toNat % 32) px py)) ∧
      ((t.reg VF).toNat = 1 ∧ (∃ px py, s.fb.pixel px py = true ∧
          spriteBit (s.indexBytes n.toNat) ((s.reg x).toNat % 64) ((s.reg y).toNat % 32) px py = true) ∨
        (t.reg VF).toNat = 0 ∧ ∀ px py, s.fb.pixel px py = true →
          spriteBit (s.indexBytes n.toNat) ((s.reg x).toNat % 64) ((s.reg y).toNat % 32) px py = false) ∧
      t.dirty = true ∧ t.pc = s.pc + 2#16 ∧ SameBut [.fb, .reg VF, .dirty, .pc] s t

/-- Drawing a sprite again at the same place takes it off: the screen is what it was before both (45_io.md; conventional XOR
drawing). -/
def Obligations.DrawingTwiceRestoresTheScreen : Prop :=
  ∀ (x y n : BitVec 4) (s t u v : State), n.toNat = 0 ∨ s.I.toNat + n.toNat - 1 ≤ 0xFFF →
    exec (.drw x y n) s = .next t → u.fb = t.fb → u.mem = s.mem → u.I = s.I → u.V = s.V →
    exec (.drw x y n) u = .next v → ∀ px py, v.fb.pixel px py = s.fb.pixel px py

/-- `Fx0A` enters wait mode for register `x` and stays at its own address; it looks at no key (45_io.md; decision D14). -/
def Obligations.WaitKeyEntersWaitMode : Prop :=
  ∀ (x : RegIx) (s : State), ∃ t, exec (.ldVK x) s = .next t ∧ t.mode = .awaitingKey x ∧ SameBut [.mode] s t

/-! ## Rules of the whole machine -/

/-- No instruction but `2nnn` and `00EE` writes the stack or reads it: with any other stack the rest of what they do is the same
(10_state.md R21). -/
def Obligations.OnlyCallAndRetUseTheStack : Prop :=
  ∀ (i : Instr) (s t : State) (stack : Vector Word 16), (∀ nnn, i ≠ .call nnn) → i ≠ .ret → exec i s = .next t →
    t.stack = s.stack ∧ exec i { s with stack := stack } = .next { t with stack := stack }

/-- The framebuffer is changed by `00E0` and `Dxyn` alone, and the dirty flag set by them alone (10_state.md, section 7). -/
def Obligations.OnlyClearAndDrawTouchTheScreen : Prop :=
  ∀ (i : Instr) (s t : State), exec i s = .next t → t.fb ≠ s.fb ∨ (s.dirty = false ∧ t.dirty = true) →
    i = .cls ∨ ∃ x y n, i = .drw x y n

/-- A byte of memory changes only where `Fx33` or `Fx55` stores, inside the bytes from `I` on that the table gives it
(20_memory.md, section 1). -/
def Obligations.MemoryChangesOnlyWhereStored : Prop :=
  ∀ (i : Instr) (s t : State) (a : Nat), s.MemOk → exec i s = .next t → t.readByte a ≠ s.readByte a →
    s.I.toNat ≤ a ∧ a < s.I.toNat + storeCount i ∧ a ≤ 0xFFF

/-- A general register changes only where an instruction names it as destination or writes `VF` as a flag (10_state.md, section 2:
the spec's derivation). -/
def Obligations.RegistersChangeOnlyWhereWritten : Prop :=
  ∀ (i : Instr) (s t : State) (r : RegIx), exec i s = .next t → t.reg r ≠ s.reg r → writesReg i r

/-- The random input is read by `Cxkk` alone: no other instruction does anything else for another random byte (40_sequencing.md,
section 2; decision D20). -/
def Obligations.RandomInputIsReadByRndAlone : Prop :=
  ∀ (i : Instr) (s t : State) (r : Byte), (∀ x kk, i ≠ .rnd x kk) → exec i s = .next t →
    exec i { s with rndIn := r } = .next { t with rndIn := r }

/-- The keypad latch is read by `Ex9E` and `ExA1` alone among the instructions, and written by none (10_state.md, section 8;
decision D28). -/
def Obligations.KeysAreReadByTheKeySkipsAlone : Prop :=
  ∀ (i : Instr) (s t : State) (k : Keys), (∀ x, i ≠ .skp x) → (∀ x, i ≠ .sknp x) → exec i s = .next t →
    t.keys = s.keys ∧ exec i { s with keys := k } = .next { t with keys := k }

/-- The delay timer is written by `Fx15` and read by `Fx07` alone among the instructions, and the sound timer is written by `Fx18`
and read by none: with any other value in a timer, what else an instruction does is the same (10_state.md, section 6). -/
def Obligations.TimersServeTheirInstructionsAlone : Prop :=
  ∀ (i : Instr) (s t : State) (v : Byte), exec i s = .next t →
    (t.DT ≠ s.DT → ∃ x, i = .ldDtV x) ∧ (t.ST ≠ s.ST → ∃ x, i = .ldStV x) ∧
    ((∀ x, i ≠ .ldVDt x) → (∀ x, i ≠ .ldDtV x) → exec i { s with DT := v } = .next { t with DT := v }) ∧
    ((∀ x, i ≠ .ldStV x) → exec i { s with ST := v } = .next { t with ST := v })

/-- The fatal faults and their conditions: an instruction that latches a fault is one the table gives the cause to, its condition
held, the info is the table's, and nothing but the latch and the dirty flag changed (60_exceptions.md, section 1; decisions D13,
D18, D19). -/
def Obligations.FaultsHaveTheirCauses : Prop :=
  ∀ (i : Instr) (s t : State) (f : Fault), s.fault = none → exec i s = .next t → t.fault = some f →
    TakesFault f s t ∧ f.code ≠ 4 ∧
      ((∃ nnn, i = .call nnn ∧ f.code = 1 ∧ s.sp.val = 16 ∧ f.info = s.pc.toNat) ∨
        (i = .ret ∧ f.code = 2 ∧ s.sp.val = 0 ∧ f.info = s.pc.toNat) ∨
        (f.code = 3 ∧ f.info = max s.I.toNat 0x1000 ∧
          ((∃ x, i = .ldB x ∧ 0xFFF < s.I.toNat + 2) ∨
            (∃ x, (i = .ldMemV x ∨ i = .ldVMem x) ∧ 0xFFF < s.I.toNat + x.toNat) ∨
            (∃ x y n, i = .drw x y n ∧ 0 < n.toNat ∧ 0xFFF < s.I.toNat + n.toNat - 1))) ∨
        (∃ x, (i = .skp x ∨ i = .sknp x) ∧ f.code = 5 ∧ 0xF < (s.reg x).toNat ∧ f.info = (s.reg x).toNat))

/-- Every instruction may be executed in every state, and every transition of the machine answers a next state and keeps the
parameters (60_exceptions.md, section 2; decision D31; 00_scope.md, section 4). -/
def Obligations.EveryTransitionCompletes : Prop :=
  (∀ (i : Instr) (s : State), ∃ t, exec i s = .next t ∧ t.cfg = s.cfg) ∧
  (∀ s : State, ∃ t, step s = .next t ∧ t.cfg = s.cfg)

/-! ## Invariants -/

/-- Every transition keeps memory canonical and inside 0x000 to 0xFFF. -/
def Obligations.StepKeepsMemoryCanonical : Prop :=
  ∀ s t : State, s.MemOk → step s = .next t → t.MemOk

/-- Every transition keeps a latched fault explained by the state it froze: precise and sticky faults at once. -/
def Obligations.StepKeepsFaultsExplained : Prop :=
  ∀ s t : State, s.FaultOk → step s = .next t → t.FaultOk

/-- Every transition keeps the pc where its arithmetic never wraps (40_sequencing.md, section 2: the spec's derivation). -/
def Obligations.StepKeepsThePcBounded : Prop :=
  ∀ s t : State, s.PcOk → step s = .next t → t.PcOk

/-! ## Encoding (30_encoding.md) -/

/-- Decoding an encoded well-formed instruction gives it back, with every operand at every value. -/
def Obligations.DecodeOfEncodeIsTheInstruction : Prop :=
  ∀ i : Instr, i.wellFormed = true → decode (encode i) = i

/-- Every word decodes to a well-formed instruction that encodes to the same word: decoding is total and loses no bit. -/
def Obligations.EncodeOfDecodeIsTheWord : Prop :=
  ∀ op : Word, (decode op).wellFormed = true ∧ encode (decode op) = op

/-- The words that decode to the sentinel are exactly those of the list, written out in the numbers of the word (30_encoding.md,
section 5; decision D9); the sentinel carries the word. -/
def Obligations.UndefinedWordsAreExactlyTheList : Prop :=
  ∀ op u : Word, decode op = .unknown u ↔ u = op ∧
    ((op.toNat / 4096 = 0x0 ∧ op.toNat ≠ 0x00E0 ∧ op.toNat ≠ 0x00EE) ∨
      (op.toNat / 4096 = 0x5 ∧ op.toNat % 16 ≠ 0) ∨
      (op.toNat / 4096 = 0x8 ∧ op.toNat % 16 ∈ [0x8, 0x9, 0xA, 0xB, 0xC, 0xD, 0xF]) ∨
      (op.toNat / 4096 = 0x9 ∧ op.toNat % 16 ≠ 0) ∨
      (op.toNat / 4096 = 0xE ∧ op.toNat % 256 ∉ [0x9E, 0xA1]) ∨
      (op.toNat / 4096 = 0xF ∧
        op.toNat % 256 ∉ [0x07, 0x0A, 0x15, 0x18, 0x1E, 0x29, 0x33, 0x55, 0x65]))

/-- Words written out from the opcode map decode to what they stand for: the source's own four examples and one word or more of
every family (30_encoding.md, section 4; 95_test_vectors.md L1.2, L2.1). -/
def Obligations.WrittenOutWordsDecode : Prop :=
  decode 0x00E0#16 = .cls ∧ decode 0x00EE#16 = .ret ∧ decode 0x1ABC#16 = .jp 0xABC#12 ∧
    decode 0x8010#16 = .ldReg 0x0#4 0x1#4 ∧ decode 0xB123#16 = .jpV0 0x123#12 ∧ decode 0x3342#16 = .seImm 0x3#4 0x42#8 ∧
    decode 0xE29E#16 = .skp 0x2#4 ∧ decode 0x820E#16 = .shl 0x2#4 0x0#4 ∧ decode 0xF265#16 = .ldVMem 0x2#4 ∧
    decode 0xD01F#16 = .drw 0x0#4 0x1#4 0xF#4 ∧ decode 0xF30A#16 = .ldVK 0x3#4 ∧ decode 0x5011#16 = .unknown 0x5011#16
end

