-- ==== Sys2Proof/Laws/Decode.lean ====
section
/-!
SUPPORT. The fields of a packed word and a word as its fields, so that proofs about the decoder and the encoder never look at
single bits.
-/

namespace Sys2Proof

/-! ### The bits of a packed word -/

theorem getLsbD_packA (m : BitVec 4) (a : Addr) (i : Nat) :
    (packA m a).getLsbD i = if i < 12 then a.getLsbD i else m.getLsbD (i - 12) :=
  BitVec.getLsbD_append

theorem getLsbD_packXK (m x : BitVec 4) (k : Byte) (i : Nat) :
    (packXK m x k).getLsbD i =
      if i < 8 then k.getLsbD i else if i - 8 < 4 then x.getLsbD (i - 8) else m.getLsbD (i - 8 - 4) :=
  BitVec.getLsbD_append.trans (by congr 1; exact BitVec.getLsbD_append)

theorem getLsbD_packXYN (m x y n : BitVec 4) (i : Nat) :
    (packXYN m x y n).getLsbD i =
      if i < 8 then (if i < 4 then n.getLsbD i else y.getLsbD (i - 4))
      else if i - 8 < 4 then x.getLsbD (i - 8) else m.getLsbD (i - 8 - 4) :=
  BitVec.getLsbD_append.trans (by congr 1 <;> exact BitVec.getLsbD_append)

theorem packXYN_eq_packXK (m x y n : BitVec 4) : packXYN m x y n = packXK m x (y ++ n) := rfl

/-! ### The fields of a packed word -/

@[simp] theorem fieldMajor_packA (m : BitVec 4) (a : Addr) : fieldMajor (packA m a) = m := by
  ext i hi; simp [fieldMajor, getLsbD_packA, BitVec.getLsbD_eq_getElem, hi]

@[simp] theorem fieldNNN_packA (m : BitVec 4) (a : Addr) : fieldNNN (packA m a) = a := by
  ext i hi; simp [fieldNNN, getLsbD_packA, BitVec.getLsbD_eq_getElem, hi]

@[simp] theorem fieldMajor_packXK (m x : BitVec 4) (k : Byte) : fieldMajor (packXK m x k) = m := by
  ext i hi
  have h1 : ¬ 12 + i < 8 := by omega
  have h2 : ¬ 12 + i - 8 < 4 := by omega
  have h3 : 12 + i - 8 - 4 = i := by omega
  simp only [fieldMajor, BitVec.getElem_extractLsb', getLsbD_packXK, h1, h2, h3, if_false,
    BitVec.getLsbD_eq_getElem hi]

@[simp] theorem fieldX_packXK (m x : BitVec 4) (k : Byte) : fieldX (packXK m x k) = x := by
  ext i hi
  have h1 : ¬ 8 + i < 8 := by omega
  have h2 : 8 + i - 8 = i := by omega
  simp only [fieldX, BitVec.getElem_extractLsb', getLsbD_packXK, h1, h2, if_false, hi, if_true,
    BitVec.getLsbD_eq_getElem hi]

@[simp] theorem fieldKK_packXK (m x : BitVec 4) (k : Byte) : fieldKK (packXK m x k) = k := by
  ext i hi; simp [fieldKK, getLsbD_packXK, BitVec.getLsbD_eq_getElem, hi]

@[simp] theorem fieldMajor_packXYN (m x y n : BitVec 4) : fieldMajor (packXYN m x y n) = m :=
  fieldMajor_packXK m x _

@[simp] theorem fieldX_packXYN (m x y n : BitVec 4) : fieldX (packXYN m x y n) = x :=
  fieldX_packXK m x _

@[simp] theorem fieldY_packXYN (m x y n : BitVec 4) : fieldY (packXYN m x y n) = y := by
  ext i hi
  have h1 : 4 + i < 8 := by omega
  have h2 : ¬ 4 + i < 4 := by omega
  have h3 : 4 + i - 4 = i := by omega
  simp only [fieldY, BitVec.getElem_extractLsb', getLsbD_packXYN, h1, h2, h3, if_false, if_true,
    BitVec.getLsbD_eq_getElem hi]

@[simp] theorem fieldN_packXYN (m x y n : BitVec 4) : fieldN (packXYN m x y n) = n := by
  ext i hi
  have h1 : i < 8 := by omega
  simp only [fieldN, BitVec.getElem_extractLsb', getLsbD_packXYN, h1, if_true, Nat.zero_add, hi,
    BitVec.getLsbD_eq_getElem hi]

/-! ### A word is its fields -/

theorem packXK_fields (op : Word) : packXK (fieldMajor op) (fieldX op) (fieldKK op) = op := by
  ext i hi
  rw [← BitVec.getLsbD_eq_getElem hi, getLsbD_packXK]
  simp only [fieldMajor, fieldX, fieldKK, BitVec.getLsbD_extractLsb', ← BitVec.getLsbD_eq_getElem hi]
  split
  · next h => simp [h]
  · split
    · next h1 h2 => simp [h2, show 8 + (i - 8) = i by omega]
    · next h1 h2 => simp [show i - 8 - 4 < 4 by omega, show 12 + (i - 8 - 4) = i by omega]

theorem fieldKK_eq (op : Word) : fieldKK op = (fieldY op ++ fieldN op : Byte) := by
  conv_lhs => rw [← packXK_fields op]
  ext i hi
  rw [fieldKK_packXK, ← BitVec.getLsbD_eq_getElem hi, ← BitVec.getLsbD_eq_getElem hi]
  refine Eq.trans ?_ BitVec.getLsbD_append.symm
  simp only [fieldKK, fieldY, fieldN, BitVec.getLsbD_extractLsb', hi, decide_true, Bool.true_and, Nat.zero_add]
  split
  · next h => simp [h]
  · next h => simp [show i - 4 < 4 by omega, show 4 + (i - 4) = i by omega]

theorem packXYN_fields (op : Word) : packXYN (fieldMajor op) (fieldX op) (fieldY op) (fieldN op) = op := by
  rw [packXYN_eq_packXK, ← fieldKK_eq, packXK_fields]

theorem packA_fields (op : Word) : packA (fieldMajor op) (fieldNNN op) = op := by
  ext i hi
  rw [← BitVec.getLsbD_eq_getElem hi, getLsbD_packA]
  simp only [fieldMajor, fieldNNN, BitVec.getLsbD_extractLsb', ← BitVec.getLsbD_eq_getElem hi]
  split
  · next h => simp [h]
  · next h => simp [show i - 12 < 4 by omega, show 12 + (i - 12) = i by omega]

/-! ### The bytes of a word -/

theorem wordOfBytes_split (op : Word) : wordOfBytes (highByte op) (lowByte op) = op := by
  ext i hi
  rw [← BitVec.getLsbD_eq_getElem hi, ← BitVec.getLsbD_eq_getElem hi]
  refine BitVec.getLsbD_append.trans ?_
  simp only [highByte, lowByte, BitVec.getLsbD_extractLsb']
  split
  · next h => simp [h]
  · next h => simp [show i - 8 < 8 by omega, show 8 + (i - 8) = i by omega]

@[simp] theorem highByte_wordOfBytes (h l : Byte) : highByte (wordOfBytes h l) = h := by
  ext i hi
  have h1 : ¬ 8 + i < 8 := by omega
  have h2 : 8 + i - 8 = i := by omega
  rw [highByte, BitVec.getElem_extractLsb']
  exact (BitVec.getLsbD_append.trans (by simp only [h1, h2, if_false])).trans (BitVec.getLsbD_eq_getElem hi)

@[simp] theorem lowByte_wordOfBytes (h l : Byte) : lowByte (wordOfBytes h l) = l := by
  ext i hi
  rw [lowByte, BitVec.getElem_extractLsb']
  exact (BitVec.getLsbD_append.trans (by simp only [Nat.zero_add, hi, if_true])).trans (BitVec.getLsbD_eq_getElem hi)

theorem toNat_wordOfBytes (h l : Byte) : (wordOfBytes h l).toNat = 256 * h.toNat + l.toNat := by
  have : (wordOfBytes h l).toNat = h.toNat <<< 8 ||| l.toNat := BitVec.toNat_append ..
  rw [this, Nat.shiftLeft_eq, Nat.mul_comm, ← Nat.two_pow_add_eq_or_of_lt l.isLt]

/-! ### Cases -/

theorem nibble_cases (m : BitVec 4) : m = 0x0#4 ∨ m = 0x1#4 ∨ m = 0x2#4 ∨ m = 0x3#4 ∨ m = 0x4#4 ∨ m = 0x5#4 ∨ m = 0x6#4 ∨
    m = 0x7#4 ∨ m = 0x8#4 ∨ m = 0x9#4 ∨ m = 0xA#4 ∨ m = 0xB#4 ∨ m = 0xC#4 ∨ m = 0xD#4 ∨ m = 0xE#4 ∨ m = 0xF#4 := by
  revert m; decide

theorem undefinedWord_fields (op : Word) : undefinedWord op =
    match fieldMajor op with
  | 0x0#4 => op != 0x00E0#16 && op != 0x00EE#16
  | 0x5#4 => fieldN op != 0x0#4
  | 0x8#4 => [0x8#4, 0x9#4, 0xA#4, 0xB#4, 0xC#4, 0xD#4, 0xF#4].contains (fieldN op)
  | 0x9#4 => fieldN op != 0x0#4
  | 0xE#4 => !([0x9E#8, 0xA1#8].contains (fieldKK op))
  | 0xF#4 => !([0x07#8, 0x0A#8, 0x15#8, 0x18#8, 0x1E#8, 0x29#8, 0x33#8, 0x55#8, 0x65#8].contains (fieldKK op))
  | _ => false := rfl

end Sys2Proof
end

