-- ==== Sys2Proof/Laws/State.lean ====
section
/-!
SUPPORT. What each update of State does to each field: one simp lemma per field per update, so that no proof unfolds a record
update.
-/

namespace Sys2Proof.Machine

/-! ### setReg -/

@[simp] theorem State.setReg_mem (s : State) (r : RegIx) (v : Byte) : (s.setReg r v).mem = s.mem := rfl
@[simp] theorem State.setReg_V (s : State) (r : RegIx) (v : Byte) : (s.setReg r v).V = s.V.set r.toNat v r.isLt := rfl
@[simp] theorem State.setReg_I (s : State) (r : RegIx) (v : Byte) : (s.setReg r v).I = s.I := rfl
@[simp] theorem State.setReg_pc (s : State) (r : RegIx) (v : Byte) : (s.setReg r v).pc = s.pc := rfl
@[simp] theorem State.setReg_sp (s : State) (r : RegIx) (v : Byte) : (s.setReg r v).sp = s.sp := rfl
@[simp] theorem State.setReg_stack (s : State) (r : RegIx) (v : Byte) : (s.setReg r v).stack = s.stack := rfl
@[simp] theorem State.setReg_DT (s : State) (r : RegIx) (v : Byte) : (s.setReg r v).DT = s.DT := rfl
@[simp] theorem State.setReg_ST (s : State) (r : RegIx) (v : Byte) : (s.setReg r v).ST = s.ST := rfl
@[simp] theorem State.setReg_fb (s : State) (r : RegIx) (v : Byte) : (s.setReg r v).fb = s.fb := rfl
@[simp] theorem State.setReg_dirty (s : State) (r : RegIx) (v : Byte) : (s.setReg r v).dirty = s.dirty := rfl
@[simp] theorem State.setReg_keys (s : State) (r : RegIx) (v : Byte) : (s.setReg r v).keys = s.keys := rfl
@[simp] theorem State.setReg_mode (s : State) (r : RegIx) (v : Byte) : (s.setReg r v).mode = s.mode := rfl
@[simp] theorem State.setReg_fault (s : State) (r : RegIx) (v : Byte) : (s.setReg r v).fault = s.fault := rfl
@[simp] theorem State.setReg_cfg (s : State) (r : RegIx) (v : Byte) : (s.setReg r v).cfg = s.cfg := rfl
@[simp] theorem State.setReg_rndIn (s : State) (r : RegIx) (v : Byte) : (s.setReg r v).rndIn = s.rndIn := rfl
@[simp] theorem State.setReg_out (s : State) (r : RegIx) (v : Byte) : (s.setReg r v).out = s.out := rfl
@[simp] theorem State.setReg_script (s : State) (r : RegIx) (v : Byte) : (s.setReg r v).script = s.script := rfl
@[simp] theorem State.setReg_draws (s : State) (r : RegIx) (v : Byte) : (s.setReg r v).draws = s.draws := rfl

/-! ### setIndex -/

@[simp] theorem State.setIndex_mem (s : State) (a : Word) : (s.setIndex a).mem = s.mem := rfl
@[simp] theorem State.setIndex_V (s : State) (a : Word) : (s.setIndex a).V = s.V := rfl
@[simp] theorem State.setIndex_I (s : State) (a : Word) : (s.setIndex a).I = a := rfl
@[simp] theorem State.setIndex_pc (s : State) (a : Word) : (s.setIndex a).pc = s.pc := rfl
@[simp] theorem State.setIndex_sp (s : State) (a : Word) : (s.setIndex a).sp = s.sp := rfl
@[simp] theorem State.setIndex_stack (s : State) (a : Word) : (s.setIndex a).stack = s.stack := rfl
@[simp] theorem State.setIndex_DT (s : State) (a : Word) : (s.setIndex a).DT = s.DT := rfl
@[simp] theorem State.setIndex_ST (s : State) (a : Word) : (s.setIndex a).ST = s.ST := rfl
@[simp] theorem State.setIndex_fb (s : State) (a : Word) : (s.setIndex a).fb = s.fb := rfl
@[simp] theorem State.setIndex_dirty (s : State) (a : Word) : (s.setIndex a).dirty = s.dirty := rfl
@[simp] theorem State.setIndex_keys (s : State) (a : Word) : (s.setIndex a).keys = s.keys := rfl
@[simp] theorem State.setIndex_mode (s : State) (a : Word) : (s.setIndex a).mode = s.mode := rfl
@[simp] theorem State.setIndex_fault (s : State) (a : Word) : (s.setIndex a).fault = s.fault := rfl
@[simp] theorem State.setIndex_cfg (s : State) (a : Word) : (s.setIndex a).cfg = s.cfg := rfl
@[simp] theorem State.setIndex_rndIn (s : State) (a : Word) : (s.setIndex a).rndIn = s.rndIn := rfl
@[simp] theorem State.setIndex_out (s : State) (a : Word) : (s.setIndex a).out = s.out := rfl
@[simp] theorem State.setIndex_script (s : State) (a : Word) : (s.setIndex a).script = s.script := rfl
@[simp] theorem State.setIndex_draws (s : State) (a : Word) : (s.setIndex a).draws = s.draws := rfl

/-! ### setFramebuffer -/

@[simp] theorem State.setFramebuffer_mem (s : State) (f : Framebuffer) : (s.setFramebuffer f).mem = s.mem := rfl
@[simp] theorem State.setFramebuffer_V (s : State) (f : Framebuffer) : (s.setFramebuffer f).V = s.V := rfl
@[simp] theorem State.setFramebuffer_I (s : State) (f : Framebuffer) : (s.setFramebuffer f).I = s.I := rfl
@[simp] theorem State.setFramebuffer_pc (s : State) (f : Framebuffer) : (s.setFramebuffer f).pc = s.pc := rfl
@[simp] theorem State.setFramebuffer_sp (s : State) (f : Framebuffer) : (s.setFramebuffer f).sp = s.sp := rfl
@[simp] theorem State.setFramebuffer_stack (s : State) (f : Framebuffer) : (s.setFramebuffer f).stack = s.stack := rfl
@[simp] theorem State.setFramebuffer_DT (s : State) (f : Framebuffer) : (s.setFramebuffer f).DT = s.DT := rfl
@[simp] theorem State.setFramebuffer_ST (s : State) (f : Framebuffer) : (s.setFramebuffer f).ST = s.ST := rfl
@[simp] theorem State.setFramebuffer_fb (s : State) (f : Framebuffer) : (s.setFramebuffer f).fb = f := rfl
@[simp] theorem State.setFramebuffer_dirty (s : State) (f : Framebuffer) : (s.setFramebuffer f).dirty = true := rfl
@[simp] theorem State.setFramebuffer_keys (s : State) (f : Framebuffer) : (s.setFramebuffer f).keys = s.keys := rfl
@[simp] theorem State.setFramebuffer_mode (s : State) (f : Framebuffer) : (s.setFramebuffer f).mode = s.mode := rfl
@[simp] theorem State.setFramebuffer_fault (s : State) (f : Framebuffer) : (s.setFramebuffer f).fault = s.fault := rfl
@[simp] theorem State.setFramebuffer_cfg (s : State) (f : Framebuffer) : (s.setFramebuffer f).cfg = s.cfg := rfl
@[simp] theorem State.setFramebuffer_rndIn (s : State) (f : Framebuffer) : (s.setFramebuffer f).rndIn = s.rndIn := rfl
@[simp] theorem State.setFramebuffer_out (s : State) (f : Framebuffer) : (s.setFramebuffer f).out = s.out := rfl
@[simp] theorem State.setFramebuffer_script (s : State) (f : Framebuffer) : (s.setFramebuffer f).script = s.script := rfl
@[simp] theorem State.setFramebuffer_draws (s : State) (f : Framebuffer) : (s.setFramebuffer f).draws = s.draws := rfl

/-! ### storeAtIndex -/

@[simp] theorem State.storeAtIndex_mem (s : State) (bs : List Byte) : (s.storeAtIndex bs).mem = s.mem.writeBlock s.I.toNat bs := rfl
@[simp] theorem State.storeAtIndex_V (s : State) (bs : List Byte) : (s.storeAtIndex bs).V = s.V := rfl
@[simp] theorem State.storeAtIndex_I (s : State) (bs : List Byte) : (s.storeAtIndex bs).I = s.I := rfl
@[simp] theorem State.storeAtIndex_pc (s : State) (bs : List Byte) : (s.storeAtIndex bs).pc = s.pc := rfl
@[simp] theorem State.storeAtIndex_sp (s : State) (bs : List Byte) : (s.storeAtIndex bs).sp = s.sp := rfl
@[simp] theorem State.storeAtIndex_stack (s : State) (bs : List Byte) : (s.storeAtIndex bs).stack = s.stack := rfl
@[simp] theorem State.storeAtIndex_DT (s : State) (bs : List Byte) : (s.storeAtIndex bs).DT = s.DT := rfl
@[simp] theorem State.storeAtIndex_ST (s : State) (bs : List Byte) : (s.storeAtIndex bs).ST = s.ST := rfl
@[simp] theorem State.storeAtIndex_fb (s : State) (bs : List Byte) : (s.storeAtIndex bs).fb = s.fb := rfl
@[simp] theorem State.storeAtIndex_dirty (s : State) (bs : List Byte) : (s.storeAtIndex bs).dirty = s.dirty := rfl
@[simp] theorem State.storeAtIndex_keys (s : State) (bs : List Byte) : (s.storeAtIndex bs).keys = s.keys := rfl
@[simp] theorem State.storeAtIndex_mode (s : State) (bs : List Byte) : (s.storeAtIndex bs).mode = s.mode := rfl
@[simp] theorem State.storeAtIndex_fault (s : State) (bs : List Byte) : (s.storeAtIndex bs).fault = s.fault := rfl
@[simp] theorem State.storeAtIndex_cfg (s : State) (bs : List Byte) : (s.storeAtIndex bs).cfg = s.cfg := rfl
@[simp] theorem State.storeAtIndex_rndIn (s : State) (bs : List Byte) : (s.storeAtIndex bs).rndIn = s.rndIn := rfl
@[simp] theorem State.storeAtIndex_out (s : State) (bs : List Byte) : (s.storeAtIndex bs).out = s.out := rfl
@[simp] theorem State.storeAtIndex_script (s : State) (bs : List Byte) : (s.storeAtIndex bs).script = s.script := rfl
@[simp] theorem State.storeAtIndex_draws (s : State) (bs : List Byte) : (s.storeAtIndex bs).draws = s.draws := rfl

/-! ### loadRegBlock -/

@[simp] theorem State.loadRegBlock_mem (s : State) (x : RegIx) (a : Nat) : (s.loadRegBlock x a).mem = s.mem := rfl
@[simp] theorem State.loadRegBlock_I (s : State) (x : RegIx) (a : Nat) : (s.loadRegBlock x a).I = s.I := rfl
@[simp] theorem State.loadRegBlock_pc (s : State) (x : RegIx) (a : Nat) : (s.loadRegBlock x a).pc = s.pc := rfl
@[simp] theorem State.loadRegBlock_sp (s : State) (x : RegIx) (a : Nat) : (s.loadRegBlock x a).sp = s.sp := rfl
@[simp] theorem State.loadRegBlock_stack (s : State) (x : RegIx) (a : Nat) : (s.loadRegBlock x a).stack = s.stack := rfl
@[simp] theorem State.loadRegBlock_DT (s : State) (x : RegIx) (a : Nat) : (s.loadRegBlock x a).DT = s.DT := rfl
@[simp] theorem State.loadRegBlock_ST (s : State) (x : RegIx) (a : Nat) : (s.loadRegBlock x a).ST = s.ST := rfl
@[simp] theorem State.loadRegBlock_fb (s : State) (x : RegIx) (a : Nat) : (s.loadRegBlock x a).fb = s.fb := rfl
@[simp] theorem State.loadRegBlock_dirty (s : State) (x : RegIx) (a : Nat) : (s.loadRegBlock x a).dirty = s.dirty := rfl
@[simp] theorem State.loadRegBlock_keys (s : State) (x : RegIx) (a : Nat) : (s.loadRegBlock x a).keys = s.keys := rfl
@[simp] theorem State.loadRegBlock_mode (s : State) (x : RegIx) (a : Nat) : (s.loadRegBlock x a).mode = s.mode := rfl
@[simp] theorem State.loadRegBlock_fault (s : State) (x : RegIx) (a : Nat) : (s.loadRegBlock x a).fault = s.fault := rfl
@[simp] theorem State.loadRegBlock_cfg (s : State) (x : RegIx) (a : Nat) : (s.loadRegBlock x a).cfg = s.cfg := rfl
@[simp] theorem State.loadRegBlock_rndIn (s : State) (x : RegIx) (a : Nat) : (s.loadRegBlock x a).rndIn = s.rndIn := rfl
@[simp] theorem State.loadRegBlock_out (s : State) (x : RegIx) (a : Nat) : (s.loadRegBlock x a).out = s.out := rfl
@[simp] theorem State.loadRegBlock_script (s : State) (x : RegIx) (a : Nat) : (s.loadRegBlock x a).script = s.script := rfl
@[simp] theorem State.loadRegBlock_draws (s : State) (x : RegIx) (a : Nat) : (s.loadRegBlock x a).draws = s.draws := rfl

/-! ### latchFault -/

@[simp] theorem State.latchFault_mem (s : State) (f : Fault) : (s.latchFault f).mem = s.mem := rfl
@[simp] theorem State.latchFault_V (s : State) (f : Fault) : (s.latchFault f).V = s.V := rfl
@[simp] theorem State.latchFault_I (s : State) (f : Fault) : (s.latchFault f).I = s.I := rfl
@[simp] theorem State.latchFault_pc (s : State) (f : Fault) : (s.latchFault f).pc = s.pc := rfl
@[simp] theorem State.latchFault_sp (s : State) (f : Fault) : (s.latchFault f).sp = s.sp := rfl
@[simp] theorem State.latchFault_stack (s : State) (f : Fault) : (s.latchFault f).stack = s.stack := rfl
@[simp] theorem State.latchFault_DT (s : State) (f : Fault) : (s.latchFault f).DT = s.DT := rfl
@[simp] theorem State.latchFault_ST (s : State) (f : Fault) : (s.latchFault f).ST = s.ST := rfl
@[simp] theorem State.latchFault_fb (s : State) (f : Fault) : (s.latchFault f).fb = s.fb := rfl
@[simp] theorem State.latchFault_dirty (s : State) (f : Fault) : (s.latchFault f).dirty = false := rfl
@[simp] theorem State.latchFault_keys (s : State) (f : Fault) : (s.latchFault f).keys = s.keys := rfl
@[simp] theorem State.latchFault_mode (s : State) (f : Fault) : (s.latchFault f).mode = s.mode := rfl
@[simp] theorem State.latchFault_fault (s : State) (f : Fault) : (s.latchFault f).fault = some f := rfl
@[simp] theorem State.latchFault_cfg (s : State) (f : Fault) : (s.latchFault f).cfg = s.cfg := rfl
@[simp] theorem State.latchFault_rndIn (s : State) (f : Fault) : (s.latchFault f).rndIn = s.rndIn := rfl
@[simp] theorem State.latchFault_out (s : State) (f : Fault) : (s.latchFault f).out = s.out := rfl
@[simp] theorem State.latchFault_script (s : State) (f : Fault) : (s.latchFault f).script = s.script := rfl
@[simp] theorem State.latchFault_draws (s : State) (f : Fault) : (s.latchFault f).draws = s.draws := rfl

/-! ### applyDirective -/

@[simp] theorem State.applyDirective_mem (s : State) (d : Directive) : (s.applyDirective d).mem = s.mem := by cases d <;> rfl
@[simp] theorem State.applyDirective_V (s : State) (d : Directive) : (s.applyDirective d).V = s.V := by cases d <;> rfl
@[simp] theorem State.applyDirective_I (s : State) (d : Directive) : (s.applyDirective d).I = s.I := by cases d <;> rfl
@[simp] theorem State.applyDirective_sp (s : State) (d : Directive) : (s.applyDirective d).sp = s.sp := by cases d <;> rfl
@[simp] theorem State.applyDirective_stack (s : State) (d : Directive) : (s.applyDirective d).stack = s.stack := by cases d <;> rfl
@[simp] theorem State.applyDirective_DT (s : State) (d : Directive) : (s.applyDirective d).DT = s.DT := by cases d <;> rfl
@[simp] theorem State.applyDirective_ST (s : State) (d : Directive) : (s.applyDirective d).ST = s.ST := by cases d <;> rfl
@[simp] theorem State.applyDirective_fb (s : State) (d : Directive) : (s.applyDirective d).fb = s.fb := by cases d <;> rfl
@[simp] theorem State.applyDirective_dirty (s : State) (d : Directive) : (s.applyDirective d).dirty = s.dirty := by cases d <;> rfl
@[simp] theorem State.applyDirective_keys (s : State) (d : Directive) : (s.applyDirective d).keys = s.keys := by cases d <;> rfl
@[simp] theorem State.applyDirective_mode (s : State) (d : Directive) : (s.applyDirective d).mode = s.mode := by cases d <;> rfl
@[simp] theorem State.applyDirective_fault (s : State) (d : Directive) : (s.applyDirective d).fault = s.fault := by cases d <;> rfl
@[simp] theorem State.applyDirective_cfg (s : State) (d : Directive) : (s.applyDirective d).cfg = s.cfg := by cases d <;> rfl
@[simp] theorem State.applyDirective_rndIn (s : State) (d : Directive) : (s.applyDirective d).rndIn = s.rndIn := by cases d <;> rfl
@[simp] theorem State.applyDirective_out (s : State) (d : Directive) : (s.applyDirective d).out = s.out := by cases d <;> rfl
@[simp] theorem State.applyDirective_script (s : State) (d : Directive) : (s.applyDirective d).script = s.script := by cases d <;> rfl
@[simp] theorem State.applyDirective_draws (s : State) (d : Directive) : (s.applyDirective d).draws = s.draws := by cases d <;> rfl

/-! ### writeback -/

@[simp] theorem State.writeback_mem (s : State) (x : RegIx) (rf : Byte × Bool) : (s.writeback x rf).mem = s.mem := by unfold State.writeback; split <;> rfl
@[simp] theorem State.writeback_I (s : State) (x : RegIx) (rf : Byte × Bool) : (s.writeback x rf).I = s.I := by unfold State.writeback; split <;> rfl
@[simp] theorem State.writeback_pc (s : State) (x : RegIx) (rf : Byte × Bool) : (s.writeback x rf).pc = s.pc := by unfold State.writeback; split <;> rfl
@[simp] theorem State.writeback_sp (s : State) (x : RegIx) (rf : Byte × Bool) : (s.writeback x rf).sp = s.sp := by unfold State.writeback; split <;> rfl
@[simp] theorem State.writeback_stack (s : State) (x : RegIx) (rf : Byte × Bool) : (s.writeback x rf).stack = s.stack := by unfold State.writeback; split <;> rfl
@[simp] theorem State.writeback_DT (s : State) (x : RegIx) (rf : Byte × Bool) : (s.writeback x rf).DT = s.DT := by unfold State.writeback; split <;> rfl
@[simp] theorem State.writeback_ST (s : State) (x : RegIx) (rf : Byte × Bool) : (s.writeback x rf).ST = s.ST := by unfold State.writeback; split <;> rfl
@[simp] theorem State.writeback_fb (s : State) (x : RegIx) (rf : Byte × Bool) : (s.writeback x rf).fb = s.fb := by unfold State.writeback; split <;> rfl
@[simp] theorem State.writeback_dirty (s : State) (x : RegIx) (rf : Byte × Bool) : (s.writeback x rf).dirty = s.dirty := by unfold State.writeback; split <;> rfl
@[simp] theorem State.writeback_keys (s : State) (x : RegIx) (rf : Byte × Bool) : (s.writeback x rf).keys = s.keys := by unfold State.writeback; split <;> rfl
@[simp] theorem State.writeback_mode (s : State) (x : RegIx) (rf : Byte × Bool) : (s.writeback x rf).mode = s.mode := by unfold State.writeback; split <;> rfl
@[simp] theorem State.writeback_fault (s : State) (x : RegIx) (rf : Byte × Bool) : (s.writeback x rf).fault = s.fault := by unfold State.writeback; split <;> rfl
@[simp] theorem State.writeback_cfg (s : State) (x : RegIx) (rf : Byte × Bool) : (s.writeback x rf).cfg = s.cfg := by unfold State.writeback; split <;> rfl
@[simp] theorem State.writeback_rndIn (s : State) (x : RegIx) (rf : Byte × Bool) : (s.writeback x rf).rndIn = s.rndIn := by unfold State.writeback; split <;> rfl
@[simp] theorem State.writeback_out (s : State) (x : RegIx) (rf : Byte × Bool) : (s.writeback x rf).out = s.out := by unfold State.writeback; split <;> rfl
@[simp] theorem State.writeback_script (s : State) (x : RegIx) (rf : Byte × Bool) : (s.writeback x rf).script = s.script := by unfold State.writeback; split <;> rfl
@[simp] theorem State.writeback_draws (s : State) (x : RegIx) (rf : Byte × Bool) : (s.writeback x rf).draws = s.draws := by unfold State.writeback; split <;> rfl

/-! ### advanceIndex -/

@[simp] theorem State.advanceIndex_mem (s : State) (x : RegIx) : (s.advanceIndex x).mem = s.mem := by unfold State.advanceIndex; split <;> rfl
@[simp] theorem State.advanceIndex_V (s : State) (x : RegIx) : (s.advanceIndex x).V = s.V := by unfold State.advanceIndex; split <;> rfl
@[simp] theorem State.advanceIndex_pc (s : State) (x : RegIx) : (s.advanceIndex x).pc = s.pc := by unfold State.advanceIndex; split <;> rfl
@[simp] theorem State.advanceIndex_sp (s : State) (x : RegIx) : (s.advanceIndex x).sp = s.sp := by unfold State.advanceIndex; split <;> rfl
@[simp] theorem State.advanceIndex_stack (s : State) (x : RegIx) : (s.advanceIndex x).stack = s.stack := by unfold State.advanceIndex; split <;> rfl
@[simp] theorem State.advanceIndex_DT (s : State) (x : RegIx) : (s.advanceIndex x).DT = s.DT := by unfold State.advanceIndex; split <;> rfl
@[simp] theorem State.advanceIndex_ST (s : State) (x : RegIx) : (s.advanceIndex x).ST = s.ST := by unfold State.advanceIndex; split <;> rfl
@[simp] theorem State.advanceIndex_fb (s : State) (x : RegIx) : (s.advanceIndex x).fb = s.fb := by unfold State.advanceIndex; split <;> rfl
@[simp] theorem State.advanceIndex_dirty (s : State) (x : RegIx) : (s.advanceIndex x).dirty = s.dirty := by unfold State.advanceIndex; split <;> rfl
@[simp] theorem State.advanceIndex_keys (s : State) (x : RegIx) : (s.advanceIndex x).keys = s.keys := by unfold State.advanceIndex; split <;> rfl
@[simp] theorem State.advanceIndex_mode (s : State) (x : RegIx) : (s.advanceIndex x).mode = s.mode := by unfold State.advanceIndex; split <;> rfl
@[simp] theorem State.advanceIndex_fault (s : State) (x : RegIx) : (s.advanceIndex x).fault = s.fault := by unfold State.advanceIndex; split <;> rfl
@[simp] theorem State.advanceIndex_cfg (s : State) (x : RegIx) : (s.advanceIndex x).cfg = s.cfg := by unfold State.advanceIndex; split <;> rfl
@[simp] theorem State.advanceIndex_rndIn (s : State) (x : RegIx) : (s.advanceIndex x).rndIn = s.rndIn := by unfold State.advanceIndex; split <;> rfl
@[simp] theorem State.advanceIndex_out (s : State) (x : RegIx) : (s.advanceIndex x).out = s.out := by unfold State.advanceIndex; split <;> rfl
@[simp] theorem State.advanceIndex_script (s : State) (x : RegIx) : (s.advanceIndex x).script = s.script := by unfold State.advanceIndex; split <;> rfl
@[simp] theorem State.advanceIndex_draws (s : State) (x : RegIx) : (s.advanceIndex x).draws = s.draws := by unfold State.advanceIndex; split <;> rfl

/-! ### tickTimers -/

@[simp] theorem State.tickTimers_mem (s : State) : (s.tickTimers).mem = s.mem := rfl
@[simp] theorem State.tickTimers_V (s : State) : (s.tickTimers).V = s.V := rfl
@[simp] theorem State.tickTimers_I (s : State) : (s.tickTimers).I = s.I := rfl
@[simp] theorem State.tickTimers_pc (s : State) : (s.tickTimers).pc = s.pc := rfl
@[simp] theorem State.tickTimers_sp (s : State) : (s.tickTimers).sp = s.sp := rfl
@[simp] theorem State.tickTimers_stack (s : State) : (s.tickTimers).stack = s.stack := rfl
@[simp] theorem State.tickTimers_DT (s : State) : (s.tickTimers).DT = tickDown s.DT := rfl
@[simp] theorem State.tickTimers_ST (s : State) : (s.tickTimers).ST = tickDown s.ST := rfl
@[simp] theorem State.tickTimers_fb (s : State) : (s.tickTimers).fb = s.fb := rfl
@[simp] theorem State.tickTimers_dirty (s : State) : (s.tickTimers).dirty = s.dirty := rfl
@[simp] theorem State.tickTimers_keys (s : State) : (s.tickTimers).keys = s.keys := rfl
@[simp] theorem State.tickTimers_mode (s : State) : (s.tickTimers).mode = s.mode := rfl
@[simp] theorem State.tickTimers_fault (s : State) : (s.tickTimers).fault = s.fault := rfl
@[simp] theorem State.tickTimers_cfg (s : State) : (s.tickTimers).cfg = s.cfg := rfl
@[simp] theorem State.tickTimers_rndIn (s : State) : (s.tickTimers).rndIn = s.rndIn := rfl
@[simp] theorem State.tickTimers_out (s : State) : (s.tickTimers).out = s.out := rfl
@[simp] theorem State.tickTimers_script (s : State) : (s.tickTimers).script = s.script := rfl
@[simp] theorem State.tickTimers_draws (s : State) : (s.tickTimers).draws = s.draws := rfl

/-! ### tickMany -/

@[simp] theorem State.tickMany_mem (s : State) (n : Nat) : (s.tickMany n).mem = s.mem := rfl
@[simp] theorem State.tickMany_V (s : State) (n : Nat) : (s.tickMany n).V = s.V := rfl
@[simp] theorem State.tickMany_I (s : State) (n : Nat) : (s.tickMany n).I = s.I := rfl
@[simp] theorem State.tickMany_pc (s : State) (n : Nat) : (s.tickMany n).pc = s.pc := rfl
@[simp] theorem State.tickMany_sp (s : State) (n : Nat) : (s.tickMany n).sp = s.sp := rfl
@[simp] theorem State.tickMany_stack (s : State) (n : Nat) : (s.tickMany n).stack = s.stack := rfl
@[simp] theorem State.tickMany_DT (s : State) (n : Nat) : (s.tickMany n).DT = tickDownBy n s.DT := rfl
@[simp] theorem State.tickMany_ST (s : State) (n : Nat) : (s.tickMany n).ST = tickDownBy n s.ST := rfl
@[simp] theorem State.tickMany_fb (s : State) (n : Nat) : (s.tickMany n).fb = s.fb := rfl
@[simp] theorem State.tickMany_dirty (s : State) (n : Nat) : (s.tickMany n).dirty = s.dirty := rfl
@[simp] theorem State.tickMany_keys (s : State) (n : Nat) : (s.tickMany n).keys = s.keys := rfl
@[simp] theorem State.tickMany_mode (s : State) (n : Nat) : (s.tickMany n).mode = s.mode := rfl
@[simp] theorem State.tickMany_fault (s : State) (n : Nat) : (s.tickMany n).fault = s.fault := rfl
@[simp] theorem State.tickMany_cfg (s : State) (n : Nat) : (s.tickMany n).cfg = s.cfg := rfl
@[simp] theorem State.tickMany_rndIn (s : State) (n : Nat) : (s.tickMany n).rndIn = s.rndIn := rfl
@[simp] theorem State.tickMany_out (s : State) (n : Nat) : (s.tickMany n).out = s.out := rfl
@[simp] theorem State.tickMany_script (s : State) (n : Nat) : (s.tickMany n).script = s.script := rfl
@[simp] theorem State.tickMany_draws (s : State) (n : Nat) : (s.tickMany n).draws = s.draws := rfl

/-! ### loadRom -/

@[simp] theorem State.loadRom_mem (s : State) (bs : List Byte) : (s.loadRom bs).mem = s.mem.loadFrom 0x200 bs := rfl
@[simp] theorem State.loadRom_V (s : State) (bs : List Byte) : (s.loadRom bs).V = s.V := rfl
@[simp] theorem State.loadRom_I (s : State) (bs : List Byte) : (s.loadRom bs).I = s.I := rfl
@[simp] theorem State.loadRom_pc (s : State) (bs : List Byte) : (s.loadRom bs).pc = s.pc := rfl
@[simp] theorem State.loadRom_sp (s : State) (bs : List Byte) : (s.loadRom bs).sp = s.sp := rfl
@[simp] theorem State.loadRom_stack (s : State) (bs : List Byte) : (s.loadRom bs).stack = s.stack := rfl
@[simp] theorem State.loadRom_DT (s : State) (bs : List Byte) : (s.loadRom bs).DT = s.DT := rfl
@[simp] theorem State.loadRom_ST (s : State) (bs : List Byte) : (s.loadRom bs).ST = s.ST := rfl
@[simp] theorem State.loadRom_fb (s : State) (bs : List Byte) : (s.loadRom bs).fb = s.fb := rfl
@[simp] theorem State.loadRom_dirty (s : State) (bs : List Byte) : (s.loadRom bs).dirty = s.dirty := rfl
@[simp] theorem State.loadRom_keys (s : State) (bs : List Byte) : (s.loadRom bs).keys = s.keys := rfl
@[simp] theorem State.loadRom_mode (s : State) (bs : List Byte) : (s.loadRom bs).mode = s.mode := rfl
@[simp] theorem State.loadRom_fault (s : State) (bs : List Byte) : (s.loadRom bs).fault = s.fault := rfl
@[simp] theorem State.loadRom_cfg (s : State) (bs : List Byte) : (s.loadRom bs).cfg = s.cfg := rfl
@[simp] theorem State.loadRom_rndIn (s : State) (bs : List Byte) : (s.loadRom bs).rndIn = s.rndIn := rfl
@[simp] theorem State.loadRom_out (s : State) (bs : List Byte) : (s.loadRom bs).out = s.out := rfl
@[simp] theorem State.loadRom_script (s : State) (bs : List Byte) : (s.loadRom bs).script = s.script := rfl
@[simp] theorem State.loadRom_draws (s : State) (bs : List Byte) : (s.loadRom bs).draws = s.draws := rfl

/-! ### beginStep -/

@[simp] theorem State.beginStep_mem (s : State) (k : Keys) (r : Byte) : (s.beginStep k r).mem = s.mem := rfl
@[simp] theorem State.beginStep_V (s : State) (k : Keys) (r : Byte) : (s.beginStep k r).V = s.V := rfl
@[simp] theorem State.beginStep_I (s : State) (k : Keys) (r : Byte) : (s.beginStep k r).I = s.I := rfl
@[simp] theorem State.beginStep_pc (s : State) (k : Keys) (r : Byte) : (s.beginStep k r).pc = s.pc := rfl
@[simp] theorem State.beginStep_sp (s : State) (k : Keys) (r : Byte) : (s.beginStep k r).sp = s.sp := rfl
@[simp] theorem State.beginStep_stack (s : State) (k : Keys) (r : Byte) : (s.beginStep k r).stack = s.stack := rfl
@[simp] theorem State.beginStep_DT (s : State) (k : Keys) (r : Byte) : (s.beginStep k r).DT = s.DT := rfl
@[simp] theorem State.beginStep_ST (s : State) (k : Keys) (r : Byte) : (s.beginStep k r).ST = s.ST := rfl
@[simp] theorem State.beginStep_fb (s : State) (k : Keys) (r : Byte) : (s.beginStep k r).fb = s.fb := rfl
@[simp] theorem State.beginStep_dirty (s : State) (k : Keys) (r : Byte) : (s.beginStep k r).dirty = false := rfl
@[simp] theorem State.beginStep_keys (s : State) (k : Keys) (r : Byte) : (s.beginStep k r).keys = k := rfl
@[simp] theorem State.beginStep_mode (s : State) (k : Keys) (r : Byte) : (s.beginStep k r).mode = s.mode := rfl
@[simp] theorem State.beginStep_fault (s : State) (k : Keys) (r : Byte) : (s.beginStep k r).fault = s.fault := rfl
@[simp] theorem State.beginStep_cfg (s : State) (k : Keys) (r : Byte) : (s.beginStep k r).cfg = s.cfg := rfl
@[simp] theorem State.beginStep_rndIn (s : State) (k : Keys) (r : Byte) : (s.beginStep k r).rndIn = r := rfl
@[simp] theorem State.beginStep_out (s : State) (k : Keys) (r : Byte) : (s.beginStep k r).out = { vramChanged := false, fault := none, unknown := none } := rfl
@[simp] theorem State.beginStep_script (s : State) (k : Keys) (r : Byte) : (s.beginStep k r).script = s.script := rfl
@[simp] theorem State.beginStep_draws (s : State) (k : Keys) (r : Byte) : (s.beginStep k r).draws = s.draws := rfl

/-! ### report -/

@[simp] theorem State.report_mem (s : State) : (s.report).mem = s.mem := rfl
@[simp] theorem State.report_V (s : State) : (s.report).V = s.V := rfl
@[simp] theorem State.report_I (s : State) : (s.report).I = s.I := rfl
@[simp] theorem State.report_pc (s : State) : (s.report).pc = s.pc := rfl
@[simp] theorem State.report_sp (s : State) : (s.report).sp = s.sp := rfl
@[simp] theorem State.report_stack (s : State) : (s.report).stack = s.stack := rfl
@[simp] theorem State.report_DT (s : State) : (s.report).DT = s.DT := rfl
@[simp] theorem State.report_ST (s : State) : (s.report).ST = s.ST := rfl
@[simp] theorem State.report_fb (s : State) : (s.report).fb = s.fb := rfl
@[simp] theorem State.report_dirty (s : State) : (s.report).dirty = s.dirty := rfl
@[simp] theorem State.report_keys (s : State) : (s.report).keys = s.keys := rfl
@[simp] theorem State.report_mode (s : State) : (s.report).mode = s.mode := rfl
@[simp] theorem State.report_fault (s : State) : (s.report).fault = s.fault := rfl
@[simp] theorem State.report_cfg (s : State) : (s.report).cfg = s.cfg := rfl
@[simp] theorem State.report_rndIn (s : State) : (s.report).rndIn = s.rndIn := rfl
@[simp] theorem State.report_out (s : State) : (s.report).out = { vramChanged := s.dirty, fault := s.fault, unknown := s.out.unknown } := rfl
@[simp] theorem State.report_script (s : State) : (s.report).script = s.script := rfl
@[simp] theorem State.report_draws (s : State) : (s.report).draws = s.draws := rfl

/-! ### reportFaulted -/

@[simp] theorem State.reportFaulted_mem (s : State) : (s.reportFaulted).mem = s.mem := rfl
@[simp] theorem State.reportFaulted_V (s : State) : (s.reportFaulted).V = s.V := rfl
@[simp] theorem State.reportFaulted_I (s : State) : (s.reportFaulted).I = s.I := rfl
@[simp] theorem State.reportFaulted_pc (s : State) : (s.reportFaulted).pc = s.pc := rfl
@[simp] theorem State.reportFaulted_sp (s : State) : (s.reportFaulted).sp = s.sp := rfl
@[simp] theorem State.reportFaulted_stack (s : State) : (s.reportFaulted).stack = s.stack := rfl
@[simp] theorem State.reportFaulted_DT (s : State) : (s.reportFaulted).DT = s.DT := rfl
@[simp] theorem State.reportFaulted_ST (s : State) : (s.reportFaulted).ST = s.ST := rfl
@[simp] theorem State.reportFaulted_fb (s : State) : (s.reportFaulted).fb = s.fb := rfl
@[simp] theorem State.reportFaulted_dirty (s : State) : (s.reportFaulted).dirty = s.dirty := rfl
@[simp] theorem State.reportFaulted_keys (s : State) : (s.reportFaulted).keys = s.keys := rfl
@[simp] theorem State.reportFaulted_mode (s : State) : (s.reportFaulted).mode = s.mode := rfl
@[simp] theorem State.reportFaulted_fault (s : State) : (s.reportFaulted).fault = s.fault := rfl
@[simp] theorem State.reportFaulted_cfg (s : State) : (s.reportFaulted).cfg = s.cfg := rfl
@[simp] theorem State.reportFaulted_rndIn (s : State) : (s.reportFaulted).rndIn = s.rndIn := rfl
@[simp] theorem State.reportFaulted_out (s : State) : (s.reportFaulted).out = { vramChanged := false, fault := s.fault, unknown := none } := rfl
@[simp] theorem State.reportFaulted_script (s : State) : (s.reportFaulted).script = s.script := rfl
@[simp] theorem State.reportFaulted_draws (s : State) : (s.reportFaulted).draws = s.draws := rfl

/-! ### setScript -/

@[simp] theorem State.setScript_mem (s : State) (l : List HostCall) : (s.setScript l).mem = s.mem := rfl
@[simp] theorem State.setScript_V (s : State) (l : List HostCall) : (s.setScript l).V = s.V := rfl
@[simp] theorem State.setScript_I (s : State) (l : List HostCall) : (s.setScript l).I = s.I := rfl
@[simp] theorem State.setScript_pc (s : State) (l : List HostCall) : (s.setScript l).pc = s.pc := rfl
@[simp] theorem State.setScript_sp (s : State) (l : List HostCall) : (s.setScript l).sp = s.sp := rfl
@[simp] theorem State.setScript_stack (s : State) (l : List HostCall) : (s.setScript l).stack = s.stack := rfl
@[simp] theorem State.setScript_DT (s : State) (l : List HostCall) : (s.setScript l).DT = s.DT := rfl
@[simp] theorem State.setScript_ST (s : State) (l : List HostCall) : (s.setScript l).ST = s.ST := rfl
@[simp] theorem State.setScript_fb (s : State) (l : List HostCall) : (s.setScript l).fb = s.fb := rfl
@[simp] theorem State.setScript_dirty (s : State) (l : List HostCall) : (s.setScript l).dirty = s.dirty := rfl
@[simp] theorem State.setScript_keys (s : State) (l : List HostCall) : (s.setScript l).keys = s.keys := rfl
@[simp] theorem State.setScript_mode (s : State) (l : List HostCall) : (s.setScript l).mode = s.mode := rfl
@[simp] theorem State.setScript_fault (s : State) (l : List HostCall) : (s.setScript l).fault = s.fault := rfl
@[simp] theorem State.setScript_cfg (s : State) (l : List HostCall) : (s.setScript l).cfg = s.cfg := rfl
@[simp] theorem State.setScript_rndIn (s : State) (l : List HostCall) : (s.setScript l).rndIn = s.rndIn := rfl
@[simp] theorem State.setScript_out (s : State) (l : List HostCall) : (s.setScript l).out = s.out := rfl
@[simp] theorem State.setScript_script (s : State) (l : List HostCall) : (s.setScript l).script = l := rfl
@[simp] theorem State.setScript_draws (s : State) (l : List HostCall) : (s.setScript l).draws = s.draws := rfl
@[simp] theorem State.reg_setScript (s : State) (l : List HostCall) (q : RegIx) : (s.setScript l).reg q = s.reg q := rfl
@[simp] theorem State.readByte_setScript (s : State) (l : List HostCall) (b : Nat) : (s.setScript l).readByte b = s.readByte b := rfl

/-! ### setDraws -/

@[simp] theorem State.setDraws_mem (s : State) (n : Nat) : (s.setDraws n).mem = s.mem := rfl
@[simp] theorem State.setDraws_V (s : State) (n : Nat) : (s.setDraws n).V = s.V := rfl
@[simp] theorem State.setDraws_I (s : State) (n : Nat) : (s.setDraws n).I = s.I := rfl
@[simp] theorem State.setDraws_pc (s : State) (n : Nat) : (s.setDraws n).pc = s.pc := rfl
@[simp] theorem State.setDraws_sp (s : State) (n : Nat) : (s.setDraws n).sp = s.sp := rfl
@[simp] theorem State.setDraws_stack (s : State) (n : Nat) : (s.setDraws n).stack = s.stack := rfl
@[simp] theorem State.setDraws_DT (s : State) (n : Nat) : (s.setDraws n).DT = s.DT := rfl
@[simp] theorem State.setDraws_ST (s : State) (n : Nat) : (s.setDraws n).ST = s.ST := rfl
@[simp] theorem State.setDraws_fb (s : State) (n : Nat) : (s.setDraws n).fb = s.fb := rfl
@[simp] theorem State.setDraws_dirty (s : State) (n : Nat) : (s.setDraws n).dirty = s.dirty := rfl
@[simp] theorem State.setDraws_keys (s : State) (n : Nat) : (s.setDraws n).keys = s.keys := rfl
@[simp] theorem State.setDraws_mode (s : State) (n : Nat) : (s.setDraws n).mode = s.mode := rfl
@[simp] theorem State.setDraws_fault (s : State) (n : Nat) : (s.setDraws n).fault = s.fault := rfl
@[simp] theorem State.setDraws_cfg (s : State) (n : Nat) : (s.setDraws n).cfg = s.cfg := rfl
@[simp] theorem State.setDraws_rndIn (s : State) (n : Nat) : (s.setDraws n).rndIn = s.rndIn := rfl
@[simp] theorem State.setDraws_out (s : State) (n : Nat) : (s.setDraws n).out = s.out := rfl
@[simp] theorem State.setDraws_script (s : State) (n : Nat) : (s.setDraws n).script = s.script := rfl
@[simp] theorem State.setDraws_draws (s : State) (n : Nat) : (s.setDraws n).draws = n := rfl
@[simp] theorem State.reg_setDraws (s : State) (n : Nat) (q : RegIx) : (s.setDraws n).reg q = s.reg q := rfl
@[simp] theorem State.readByte_setDraws (s : State) (n : Nat) (b : Nat) : (s.setDraws n).readByte b = s.readByte b := rfl

theorem State.setScript_self (s : State) : s.setScript s.script = s := rfl

theorem State.setDraws_self (s : State) : s.setDraws s.draws = s := rfl

/-! ### What the remaining fields become -/

@[simp] theorem State.applyDirective_next_pc (s : State) : (s.applyDirective .next).pc = s.pc + 2#16 := rfl
@[simp] theorem State.applyDirective_skip_pc (s : State) : (s.applyDirective .skip).pc = s.pc + 4#16 := rfl
@[simp] theorem State.applyDirective_jump_pc (s : State) (a : Word) : (s.applyDirective (.jump a)).pc = a := rfl

theorem State.advanceIndex_I (s : State) (x : RegIx) :
    (s.advanceIndex x).I = if s.cfg.indexAdvance then s.I + BitVec.ofNat 16 (blockCount x) else s.I := by
  unfold State.advanceIndex; split <;> rfl

/-! ### What updates leave of the registers and of the bytes of memory -/

@[simp] theorem State.readByte_setReg (s : State) (r : RegIx) (v : Byte) (b : Nat) : (s.setReg r v).readByte b = s.readByte b := rfl
@[simp] theorem State.reg_setIndex (s : State) (a : Word) (q : RegIx) : (s.setIndex a).reg q = s.reg q := rfl
@[simp] theorem State.readByte_setIndex (s : State) (a : Word) (b : Nat) : (s.setIndex a).readByte b = s.readByte b := rfl
@[simp] theorem State.reg_setFramebuffer (s : State) (f : Framebuffer) (q : RegIx) : (s.setFramebuffer f).reg q = s.reg q := rfl
@[simp] theorem State.readByte_setFramebuffer (s : State) (f : Framebuffer) (b : Nat) : (s.setFramebuffer f).readByte b = s.readByte b := rfl
@[simp] theorem State.reg_storeAtIndex (s : State) (bs : List Byte) (q : RegIx) : (s.storeAtIndex bs).reg q = s.reg q := rfl
@[simp] theorem State.readByte_loadRegBlock (s : State) (x : RegIx) (a : Nat) (b : Nat) : (s.loadRegBlock x a).readByte b = s.readByte b := rfl
@[simp] theorem State.reg_latchFault (s : State) (f : Fault) (q : RegIx) : (s.latchFault f).reg q = s.reg q := rfl
@[simp] theorem State.readByte_latchFault (s : State) (f : Fault) (b : Nat) : (s.latchFault f).readByte b = s.readByte b := rfl
@[simp] theorem State.reg_applyDirective (s : State) (d : Directive) (q : RegIx) : (s.applyDirective d).reg q = s.reg q := by cases d <;> rfl
@[simp] theorem State.readByte_applyDirective (s : State) (d : Directive) (b : Nat) : (s.applyDirective d).readByte b = s.readByte b := by cases d <;> rfl
@[simp] theorem State.readByte_writeback (s : State) (x : RegIx) (rf : Byte × Bool) (b : Nat) : (s.writeback x rf).readByte b = s.readByte b := by unfold State.writeback; split <;> rfl
@[simp] theorem State.reg_advanceIndex (s : State) (x : RegIx) (q : RegIx) : (s.advanceIndex x).reg q = s.reg q := by unfold State.advanceIndex; split <;> rfl
@[simp] theorem State.readByte_advanceIndex (s : State) (x : RegIx) (b : Nat) : (s.advanceIndex x).readByte b = s.readByte b := by unfold State.advanceIndex; split <;> rfl
@[simp] theorem State.reg_tickTimers (s : State) (q : RegIx) : (s.tickTimers).reg q = s.reg q := rfl
@[simp] theorem State.readByte_tickTimers (s : State) (b : Nat) : (s.tickTimers).readByte b = s.readByte b := rfl
@[simp] theorem State.reg_tickMany (s : State) (n : Nat) (q : RegIx) : (s.tickMany n).reg q = s.reg q := rfl
@[simp] theorem State.readByte_tickMany (s : State) (n : Nat) (b : Nat) : (s.tickMany n).readByte b = s.readByte b := rfl
@[simp] theorem State.reg_loadRom (s : State) (bs : List Byte) (q : RegIx) : (s.loadRom bs).reg q = s.reg q := rfl
@[simp] theorem State.reg_beginStep (s : State) (k : Keys) (r : Byte) (q : RegIx) : (s.beginStep k r).reg q = s.reg q := rfl
@[simp] theorem State.readByte_beginStep (s : State) (k : Keys) (r : Byte) (b : Nat) : (s.beginStep k r).readByte b = s.readByte b := rfl
@[simp] theorem State.reg_report (s : State) (q : RegIx) : (s.report).reg q = s.reg q := rfl
@[simp] theorem State.readByte_report (s : State) (b : Nat) : (s.report).readByte b = s.readByte b := rfl
@[simp] theorem State.reg_reportFaulted (s : State) (q : RegIx) : (s.reportFaulted).reg q = s.reg q := rfl
@[simp] theorem State.readByte_reportFaulted (s : State) (b : Nat) : (s.reportFaulted).readByte b = s.readByte b := rfl

end Sys2Proof.Machine
end

