-- ==== Sys2Proof/Laws/Regs.lean ====
section
/-!
SUPPORT. What the shared operations over registers, stack, timers, keys and address ranges can do, each said once.
-/

namespace Sys2Proof.Machine

theorem regIx_toNat_ne {r q : RegIx} (h : r ≠ q) : r.toNat ≠ q.toNat := fun e => h (BitVec.eq_of_toNat_eq e)

@[simp] theorem State.reg_setReg (s : State) (r q : RegIx) (v : Byte) :
    (s.setReg r v).reg q = if q = r then v else s.reg q := by
  unfold State.reg
  simp only [State.setReg_V]
  split
  · next h => subst h; simp
  · next h => exact Vector.getElem_set_ne _ _ (regIx_toNat_ne (Ne.symm h))

theorem State.reg_writeback (s : State) (x q : RegIx) (rf : Byte × Bool) :
    (s.writeback x rf).reg q =
      match s.cfg.flagOrder with
      | .flagLast => if q = VF then flagByte rf.2 else if q = x then rf.1 else s.reg q
      | .flagFirst => if q = x then rf.1 else if q = VF then flagByte rf.2 else s.reg q := by
  unfold State.writeback
  cases s.cfg.flagOrder <;> simp

theorem State.reg_loadRegBlock (s : State) (x q : RegIx) (a : Nat) :
    (s.loadRegBlock x a).reg q = if q.toNat ≤ x.toNat then s.readByte (a + q.toNat) else s.reg q := by
  simp [State.reg, State.loadRegBlock]

theorem State.length_regBlock (s : State) (x : RegIx) : (s.regBlock x).length = blockCount x := by
  have := x.isLt
  simp [State.regBlock, blockCount]; omega

theorem State.getD_regBlock (s : State) (x q : RegIx) (d : Byte) (h : q.toNat ≤ x.toNat) :
    (s.regBlock x).getD q.toNat d = s.reg q := by
  have hq : q.toNat < blockCount x := Nat.lt_succ_of_le h
  have hl : q.toNat < (s.regBlock x).length := by rw [State.length_regBlock]; exact hq
  rw [List.getD_eq_getElem _ _ hl]
  simp [State.regBlock, State.reg]

theorem State.reg_congr {s t : State} (h : t.V = s.V) (q : RegIx) : t.reg q = s.reg q := by
  unfold State.reg; simp [h]

theorem State.readByte_congr {s t : State} (h : t.mem = s.mem) (a : Nat) : t.readByte a = s.readByte a := by
  unfold State.readByte; rw [h]

theorem State.push_eq_some (s t : State) (a : Word) (h : s.push a = some t) :
    ∃ hs : s.sp.val < 16, t = { s with stack := s.stack.set s.sp.val a hs, sp := ⟨s.sp.val + 1, by omega⟩ } := by
  unfold State.push at h
  split at h
  · next hs => exact ⟨hs, (Option.some.inj h).symm⟩
  · cases h

theorem State.push_of_lt {s : State} (a : Word) (h : s.sp.val < 16) :
    s.push a = some { s with stack := s.stack.set s.sp.val a h, sp := ⟨s.sp.val + 1, Nat.succ_lt_succ h⟩ } := by
  unfold State.push; rw [dif_pos h]

theorem State.push_eq_none (s : State) (a : Word) : s.push a = none ↔ s.sp.val = 16 := by
  have := s.sp.isLt
  unfold State.push
  split <;> simp <;> omega

theorem State.pop_eq_some (s t : State) (a : Word) (h : s.pop = some (a, t)) :
    ∃ hs : 0 < s.sp.val, a = s.stack[s.sp.val - 1] ∧ t = { s with sp := ⟨s.sp.val - 1, by omega⟩ } := by
  unfold State.pop at h
  split at h
  · next hs => cases h; exact ⟨hs, rfl, rfl⟩
  · cases h

theorem State.pop_of_pos {s : State} (h : 0 < s.sp.val) :
    s.pop = some (s.stack[s.sp.val - 1]'(by have := s.sp.isLt; omega),
      { s with sp := ⟨s.sp.val - 1, lt_of_le_of_lt (Nat.sub_le _ _) s.sp.isLt⟩ }) := by
  unfold State.pop; rw [dif_pos h]

theorem State.pop_eq_none (s : State) : s.pop = none ↔ s.sp.val = 0 := by
  unfold State.pop
  split <;> simp <;> omega

theorem toNat_tickDown (v : Byte) : (tickDown v).toNat = v.toNat - 1 := by
  have := v.isLt
  unfold tickDown
  split
  · simp; omega
  · omega

theorem toNat_tickDownBy (n : Nat) (v : Byte) : (tickDownBy n v).toNat = v.toNat - n := by
  have := v.isLt
  simp [tickDownBy]; omega

theorem State.tickMany_zero (s : State) : s.tickMany 0 = s := by
  have h : ∀ v, tickDownBy 0 v = v := fun v => BitVec.eq_of_toNat_eq (by rw [toNat_tickDownBy]; rfl)
  unfold State.tickMany; rw [h, h]

theorem State.tickMany_succ (n : Nat) (s : State) : s.tickMany (n + 1) = (s.tickMany n).tickTimers := by
  have h : ∀ v, tickDownBy (n + 1) v = tickDown (tickDownBy n v) := fun v => BitVec.eq_of_toNat_eq (by
    rw [toNat_tickDown, toNat_tickDownBy, toNat_tickDownBy]; omega)
  unfold State.tickMany State.tickTimers; rw [h, h]

theorem leastKey_eq_none (keys : Keys) : leastKey keys = none ↔ ∀ k : RegIx, keys.getLsbD k.toNat = false := by
  unfold leastKey
  rw [List.find?_eq_none]
  constructor
  · intro h k; simpa using h k.toNat (List.mem_range.mpr k.isLt)
  · intro h k hk; simpa using h (BitVec.ofNatLT k (List.mem_range.mp hk))

theorem leastKey_eq_some (keys : Keys) (k : RegIx) : leastKey keys = some k.toNat ↔
    keys.getLsbD k.toNat = true ∧ ∀ j : RegIx, j.toNat < k.toNat → keys.getLsbD j.toNat = false := by
  unfold leastKey
  rw [List.find?_range_eq_some]
  constructor
  · rintro ⟨h1, -, h3⟩; exact ⟨h1, fun j hj => by simpa using h3 j.toNat hj⟩
  · rintro ⟨h1, h3⟩
    refine ⟨h1, List.mem_range.mpr k.isLt, fun j hj => ?_⟩
    have hj16 : j < 2 ^ 4 := lt_trans hj k.isLt
    have := h3 (BitVec.ofNatLT j hj16) hj
    rw [BitVec.toNat_ofNatLT] at this
    simp [this]

theorem outOfRange_eq_none (b : Word) (n : Nat) : outOfRange b n = none ↔ n = 0 ∨ b.toNat + n ≤ 0x1000 := by
  unfold outOfRange
  split <;> simp <;> omega

theorem outOfRange_eq_some (b a : Word) (n : Nat) (h : outOfRange b n = some a) :
    n ≠ 0 ∧ 0x1000 < b.toNat + n ∧ a.toNat = max b.toNat 0x1000 := by
  unfold outOfRange at h
  split at h
  · next hn =>
    refine ⟨hn.1, by omega, ?_⟩
    cases h
    split
    · simp; omega
    · omega
  · cases h
end Sys2Proof.Machine
end

