-- ==== Sys2Proof/Laws/Draw.lean ====
section
/-!
SUPPORT. What drawing a sprite does to every pixel and when it collides: the loops of 45_io.md R110 as one list of touches on
pairwise distinct pixels.
-/

namespace Sys2Proof.Machine

theorem Framebuffer.pixel_toggle (fb : Framebuffer) (px p : Fin 64) (py q : Fin 32) :
    (fb.toggle px py).pixel p q = (fb.pixel p q ^^ (decide (p = px) && decide (q = py))) := by
  unfold Framebuffer.pixel Framebuffer.toggle
  by_cases hq : q = py
  · subst hq
    simp only [Fin.getElem_fin, Vector.getElem_set_self, BitVec.getLsbD_xor, BitVec.getLsbD_shiftLeft, decide_true,
      Bool.and_true]
    congr 1
    by_cases hp : p = px
    · subst hp; simp
    · have : p.val ≠ px.val := fun h => hp (Fin.ext h)
      simp [hp]; omega
  · have : py.val ≠ q.val := fun h => hq (Fin.ext h.symm)
    simp [hq, Vector.getElem_set_ne _ _ this]

/-- One bit to draw and the pixel it falls on. -/
structure Touch where
  bit : Bool
  px : Fin 64
  py : Fin 32

/-- Whether a touch toggles a pixel. -/
def Touch.hits (t : Touch) (p : Fin 64) (q : Fin 32) : Bool := t.bit && (decide (p = t.px) && decide (q = t.py))

theorem pixel_drawBit (bit : Bool) (px p : Fin 64) (py q : Fin 32) (acc : Framebuffer × Bool) :
    (drawBit bit px py acc).1.pixel p q = (acc.1.pixel p q ^^ (bit && (decide (p = px) && decide (q = py)))) := by
  cases bit <;> simp [drawBit, Framebuffer.pixel_toggle]

theorem collide_drawBit (bit : Bool) (px : Fin 64) (py : Fin 32) (acc : Framebuffer × Bool) :
    (drawBit bit px py acc).2 = (acc.2 || (bit && acc.1.pixel px py)) := by
  cases bit <;> simp [drawBit]

/-- Draws the touches in order. -/
def drawTouches (ts : List Touch) (acc : Framebuffer × Bool) : Framebuffer × Bool :=
  ts.foldl (fun acc t => drawBit t.bit t.px t.py acc) acc

theorem drawTouches_spec : ∀ (ts : List Touch) (acc : Framebuffer × Bool), (ts.map fun t => (t.px, t.py)).Nodup →
    (∀ p q, (drawTouches ts acc).1.pixel p q = (acc.1.pixel p q ^^ ts.any fun t => t.hits p q)) ∧
    (drawTouches ts acc).2 = (acc.2 || ts.any fun t => t.bit && acc.1.pixel t.px t.py)
  | [], acc, _ => by simp [drawTouches]
  | t :: ts, acc, h => by
    obtain ⟨hn, hts⟩ := List.nodup_cons.mp h
    obtain ⟨ih1, ih2⟩ := drawTouches_spec ts (drawBit t.bit t.px t.py acc) hts
    have hne : ∀ u ∈ ts, u.px ≠ t.px ∨ u.py ≠ t.py := fun u hu => by
      by_contra hc
      push Not at hc
      exact hn (List.mem_map.mpr ⟨u, hu, by rw [hc.1, hc.2]⟩)
    have e : drawTouches (t :: ts) acc = drawTouches ts (drawBit t.bit t.px t.py acc) := rfl
    constructor
    · intro p q
      rw [e, ih1, pixel_drawBit, List.any_cons]
      by_cases hp : p = t.px ∧ q = t.py
      · have : (ts.any fun u => u.hits p q) = false := by
          rw [List.any_eq_false]
          intro u hu
          rcases hne u hu with h | h
          · simp [Touch.hits, hp.1, Ne.symm h]
          · simp [Touch.hits, hp.2, Ne.symm h]
        rw [this]; simp [Touch.hits]
      · have : (decide (p = t.px) && decide (q = t.py)) = false := by simpa using hp
        simp [Touch.hits, this]
    · rw [e, ih2, collide_drawBit, List.any_cons, Bool.or_assoc]
      congr 2
      rw [Bool.eq_iff_iff, List.any_eq_true, List.any_eq_true]
      refine exists_congr fun u => and_congr_right fun hu => ?_
      rw [pixel_drawBit]
      rcases hne u hu with h | h <;> simp [h]

/-- The touches of one sprite row. -/
def rowTouches (b : Byte) (x0 : Nat) (py : Fin 32) : List Touch :=
  (List.range 8).map fun col => ⟨b.getLsbD (7 - col), spriteColumn x0 col, py⟩

/-- The touches of the rows of a sprite. -/
def rowsTouches : List Byte → Nat → Nat → Nat → List Touch
  | [], _, _, _ => []
  | b :: bs, x0, y0, r => rowTouches b x0 (spriteRow y0 r) ++ rowsTouches bs x0 y0 (r + 1)

theorem drawRow_eq (b : Byte) (x0 : Nat) (py : Fin 32) (acc : Framebuffer × Bool) :
    drawRow b x0 py acc = drawTouches (rowTouches b x0 py) acc := by
  simp only [drawRow, drawTouches, rowTouches, List.foldl_map]

theorem drawRows_eq : ∀ (bs : List Byte) (x0 y0 r : Nat) (acc : Framebuffer × Bool),
    drawRows bs x0 y0 r acc = drawTouches (rowsTouches bs x0 y0 r) acc
  | [], _, _, _, _ => rfl
  | b :: bs, x0, y0, r, acc => by
    rw [drawRows, drawRows_eq bs x0 y0 (r + 1), rowsTouches, drawRow_eq]
    simp only [drawTouches, List.foldl_append]

theorem mem_rowsTouches : ∀ (bs : List Byte) (x0 y0 r : Nat) (t : Touch), t ∈ rowsTouches bs x0 y0 r ↔
    ∃ k col, k < bs.length ∧ col < 8 ∧ t = ⟨(bs.getD k 0x00#8).getLsbD (7 - col), spriteColumn x0 col, spriteRow y0 (r + k)⟩
  | [], _, _, _, t => by simp [rowsTouches]
  | b :: bs, x0, y0, r, t => by
    rw [rowsTouches, List.mem_append, mem_rowsTouches bs x0 y0 (r + 1) t]
    constructor
    · rintro (h | ⟨k, col, hk, hc, rfl⟩)
      · obtain ⟨col, hc, rfl⟩ := List.mem_map.mp h
        exact ⟨0, col, by simp, List.mem_range.mp hc, rfl⟩
      · exact ⟨k + 1, col, by simpa using hk, hc, by simp [Nat.add_assoc, Nat.add_comm 1 k]⟩
    · rintro ⟨k, col, hk, hc, rfl⟩
      cases k with
      | zero => exact .inl (List.mem_map.mpr ⟨col, List.mem_range.mpr hc, rfl⟩)
      | succ k => exact .inr ⟨k, col, by simpa using hk, hc, by simp [Nat.add_assoc, Nat.add_comm 1 k]⟩

theorem spriteColumn_inj {x0 c d : Nat} (hc : c < 8) (hd : d < 8) (h : spriteColumn x0 c = spriteColumn x0 d) : c = d := by
  have := congrArg Fin.val h
  simp [spriteColumn, Fin.ofNat] at this
  omega

theorem spriteRow_inj {y0 c d : Nat} (hc : c < 32) (hd : d < 32) (h : spriteRow y0 c = spriteRow y0 d) : c = d := by
  have := congrArg Fin.val h
  simp [spriteRow, Fin.ofNat] at this
  omega

theorem nodup_rowsTouches : ∀ (bs : List Byte) (x0 y0 r : Nat), r + bs.length ≤ 32 →
    ((rowsTouches bs x0 y0 r).map fun t => (t.px, t.py)).Nodup
  | [], _, _, _, _ => by simp [rowsTouches]
  | b :: bs, x0, y0, r, h => by
    simp only [List.length_cons] at h
    rw [rowsTouches, List.map_append, List.nodup_append]
    refine ⟨?_, nodup_rowsTouches bs x0 y0 (r + 1) (by omega), ?_⟩
    · simp only [rowTouches, List.map_map]
      refine List.Nodup.map_on ?_ List.nodup_range
      intro c hc d hd he
      exact spriteColumn_inj (List.mem_range.mp hc) (List.mem_range.mp hd) (congrArg Prod.fst he)
    · rintro a ha b' hb rfl
      obtain ⟨t, ht, rfl⟩ := List.mem_map.mp ha
      obtain ⟨u, hu, he⟩ := List.mem_map.mp hb
      obtain ⟨col, -, rfl⟩ := List.mem_map.mp ht
      obtain ⟨k, col', hk, -, rfl⟩ := (mem_rowsTouches bs x0 y0 (r + 1) u).mp hu
      have := spriteRow_inj (by omega) (by omega) (congrArg Prod.snd he)
      omega

theorem any_hits_eq_spriteBit (bs : List Byte) (x0 y0 : Nat) (hx : x0 < 64) (hy : y0 < 32) (hl : bs.length ≤ 32) (p : Fin 64) (q : Fin 32) :
    ((rowsTouches bs x0 y0 0).any fun t => t.hits p q) = spriteBit bs x0 y0 p q := by
  rw [Bool.eq_iff_iff, List.any_eq_true]
  simp only [spriteBit, Bool.and_eq_true, decide_eq_true_eq]
  constructor
  · rintro ⟨t, ht, hh⟩
    obtain ⟨k, col, hk, hc, rfl⟩ := (mem_rowsTouches _ _ _ _ _).mp ht
    simp only [Touch.hits, Bool.and_eq_true, decide_eq_true_eq] at hh
    obtain ⟨hb, rfl, rfl⟩ := hh
    have e1 : ((spriteColumn x0 col).val + 64 - x0) % 64 = col := by simp [spriteColumn, Fin.ofNat]; omega
    have e2 : ((spriteRow y0 (0 + k)).val + 32 - y0) % 32 = k := by simp [spriteRow, Fin.ofNat]; omega
    rw [e1, e2]
    exact ⟨⟨hc, hk⟩, hb⟩
  · rintro ⟨⟨hc, hk⟩, hb⟩
    refine ⟨⟨_, _, _⟩, (mem_rowsTouches _ _ _ _ _).mpr ⟨_, _, hk, hc, rfl⟩, ?_⟩
    simp only [Touch.hits, hb, Bool.true_and, Bool.and_eq_true, decide_eq_true_eq]
    constructor
    · apply Fin.ext; simp [spriteColumn, Fin.ofNat]; omega
    · apply Fin.ext; simp [spriteRow, Fin.ofNat]; omega

theorem drawSprite_spec (fb : Framebuffer) (vx vy : Byte) (rows : List Byte) (h : rows.length ≤ 32) :
    (∀ p q, (fb.drawSprite vx vy rows).1.pixel p q =
      (fb.pixel p q ^^ spriteBit rows (vx.toNat % 64) (vy.toNat % 32) p q)) ∧
    ((fb.drawSprite vx vy rows).2 = true ↔
      ∃ p q, fb.pixel p q = true ∧ spriteBit rows (vx.toNat % 64) (vy.toNat % 32) p q = true) := by
  have hx : vx.toNat % 64 < 64 := Nat.mod_lt _ (by omega)
  have hy : vy.toNat % 32 < 32 := Nat.mod_lt _ (by omega)
  obtain ⟨h1, h2⟩ := drawTouches_spec (rowsTouches rows (vx.toNat % 64) (vy.toNat % 32) 0) (fb, false)
    (nodup_rowsTouches _ _ _ _ (by omega))
  unfold Framebuffer.drawSprite
  rw [drawRows_eq]
  refine ⟨fun p q => by rw [h1, any_hits_eq_spriteBit _ _ _ hx hy h], ?_⟩
  rw [h2, Bool.false_or, List.any_eq_true]
  constructor
  · rintro ⟨t, ht, hb⟩
    simp only [Bool.and_eq_true] at hb
    refine ⟨t.px, t.py, hb.2, ?_⟩
    rw [← any_hits_eq_spriteBit _ _ _ hx hy h, List.any_eq_true]
    exact ⟨t, ht, by simp [Touch.hits, hb.1]⟩
  · rintro ⟨p, q, hp, hs⟩
    rw [← any_hits_eq_spriteBit _ _ _ hx hy h, List.any_eq_true] at hs
    obtain ⟨t, ht, hh⟩ := hs
    simp only [Touch.hits, Bool.and_eq_true, decide_eq_true_eq] at hh
    obtain ⟨hb, rfl, rfl⟩ := hh
    exact ⟨t, ht, by simp [hb, hp]⟩
end Sys2Proof.Machine
end

