-- ==== Sys2Proof/Laws/Memory.lean ====
section
/-!
SUPPORT. The laws of memory: a read after a write, and that every memory operation keeps the canonical form.
-/

namespace Sys2Proof.Machine

@[simp] theorem Memory.read_nil (a : Nat) : Memory.read [] a = Memory.unlisted := rfl

theorem Memory.read_of_absent : ∀ (m : Memory) (a : Nat), (∀ c ∈ m, c.1 ≠ a) → m.read a = Memory.unlisted
  | [], _, _ => rfl
  | (b, v) :: m, a, h => by
    have hb : a ≠ b := fun e => h (b, v) (by simp) e.symm
    simp only [Memory.read, if_neg hb]
    exact Memory.read_of_absent m a fun c hc => h c (by simp [hc])

theorem Memory.read_cons (m : Memory) (a b : Nat) (v : Byte) (h : ∀ c ∈ m, c.1 ≠ a) :
    (Memory.cons a v m).read b = if b = a then v else m.read b := by
  unfold Memory.cons
  split
  · next e =>
    split
    · next e' => subst e' e; exact Memory.read_of_absent m b h
    · rfl
  · rfl

theorem Memory.read_write : ∀ (m : Memory) (a b : Nat) (v : Byte), m.Pairwise (fun c d => c.1 < d.1) →
    (m.write a v).read b = if b = a then v else m.read b
  | [], a, b, v, _ => Memory.read_cons [] a b v (by simp)
  | (c, w) :: m, a, b, v, h => by
    obtain ⟨hc, hm⟩ := List.pairwise_cons.mp h
    unfold Memory.write
    split
    · next hlt =>
      refine Memory.read_cons _ a b v fun d hd => ?_
      rcases List.mem_cons.mp hd with rfl | hd
      · simp; omega
      · have := hc d hd; simp at this; omega
    · split
      · next _ e =>
        subst e
        rw [Memory.read_cons _ _ _ _ fun d hd => by have := hc d hd; simp at this; omega]
        by_cases hb : b = a <;> simp [hb, Memory.read]
      · next hlt hne =>
        simp only [Memory.read, Memory.read_write m a b v hm]
        by_cases hb : b = c
        · subst hb; simp [Ne.symm hne]
        · simp [hb]

theorem Memory.mem_cons_sub {m : Memory} {a : Nat} {v : Byte} {c : Host.Cell} (h : c ∈ Memory.cons a v m) :
    c ∈ m ∨ (c = (a, v) ∧ v ≠ Memory.unlisted) := by
  unfold Memory.cons at h
  split at h
  · exact .inl h
  · next hv => rcases List.mem_cons.mp h with rfl | h
               · exact .inr ⟨rfl, hv⟩
               · exact .inl h

theorem Memory.mem_write_sub : ∀ {m : Memory} {a : Nat} {v : Byte} {c : Host.Cell}, c ∈ m.write a v →
    c ∈ m ∨ (c = (a, v) ∧ v ≠ Memory.unlisted)
  | [], _, _, _, h => Memory.mem_cons_sub h
  | (b, w) :: m, a, v, c, h => by
    unfold Memory.write at h
    split at h
    · exact Memory.mem_cons_sub h
    · split at h
      · exact (Memory.mem_cons_sub h).imp_left fun h => by simp [h]
      · rcases List.mem_cons.mp h with rfl | h
        · simp
        · exact (Memory.mem_write_sub h).imp_left fun h => by simp [h]

theorem Memory.pairwise_cons_op {m : Memory} {a : Nat} {v : Byte} (h : m.Pairwise (fun c d => c.1 < d.1))
    (ha : ∀ c ∈ m, a < c.1) : (Memory.cons a v m).Pairwise (fun c d => c.1 < d.1) := by
  unfold Memory.cons
  split
  · exact h
  · exact List.pairwise_cons.mpr ⟨ha, h⟩

theorem Memory.pairwise_write : ∀ {m : Memory} {a : Nat} {v : Byte}, m.Pairwise (fun c d => c.1 < d.1) →
    (m.write a v).Pairwise (fun c d => c.1 < d.1)
  | [], _, _, h => Memory.pairwise_cons_op h (by simp)
  | (b, w) :: m, a, v, h => by
    obtain ⟨hc, hm⟩ := List.pairwise_cons.mp h
    unfold Memory.write
    split
    · next hlt => exact Memory.pairwise_cons_op h fun c hc' => by
                    rcases List.mem_cons.mp hc' with rfl | hc'
                    · exact hlt
                    · exact lt_trans hlt (hc c hc')
    · split
      · next _ e => exact Memory.pairwise_cons_op hm fun c hc' => e ▸ hc c hc'
      · next hlt hne => exact List.pairwise_cons.mpr ⟨fun c hc' => by
                          rcases Memory.mem_write_sub hc' with h | ⟨rfl, _⟩
                          · exact hc c h
                          · simp; omega, Memory.pairwise_write hm⟩

theorem Memory.wf_nil : Memory.wf [] := by simp [Memory.wf]

theorem Memory.wf_write {m : Memory} {a : Nat} {v : Byte} (h : m.wf) (ha : a < memSize) : (m.write a v).wf :=
  ⟨Memory.pairwise_write h.1, fun c hc => by
    rcases Memory.mem_write_sub hc with h' | ⟨rfl, hv⟩
    · exact h.2 c h'
    · exact ⟨ha, hv⟩⟩

theorem Memory.wf_writeBlock : ∀ {m : Memory} {a : Nat} {bs : List Byte}, m.wf → a + bs.length ≤ memSize →
    (m.writeBlock a bs).wf
  | _, _, [], h, _ => h
  | _, a, b :: bs, h, ha => by
    simp at ha
    exact Memory.wf_writeBlock (m := Memory.write _ a b) (Memory.wf_write h (by omega)) (by omega)

theorem Memory.wf_loadFrom : ∀ {m : Memory} {a : Nat} {bs : List Byte}, m.wf → (m.loadFrom a bs).wf
  | _, _, [], h => h
  | m, a, b :: bs, h => by
    unfold Memory.loadFrom
    refine Memory.wf_loadFrom ?_
    split
    · exact Memory.wf_write h (by unfold memSize; omega)
    · exact h

theorem Memory.read_writeBlock : ∀ (m : Memory) (a b : Nat) (bs : List Byte), m.wf → a + bs.length ≤ memSize →
    (m.writeBlock a bs).read b =
      if a ≤ b ∧ b < a + bs.length then bs.getD (b - a) Memory.unlisted else m.read b
  | _, a, b, [], _, _ => by simp [Memory.writeBlock]
  | m, a, b, v :: bs, h, ha => by
    simp at ha
    rw [Memory.writeBlock, Memory.read_writeBlock _ (a + 1) b bs (Memory.wf_write h (by omega)) (by omega),
      Memory.read_write m a b v h.1]
    by_cases hb : b = a
    · subst hb; simp
    · by_cases hab : a ≤ b
      · obtain ⟨k, rfl⟩ : ∃ k, b = a + 1 + k := ⟨b - (a + 1), by omega⟩
        have e1 : a + 1 + k - (a + 1) = k := by omega
        have e2 : a + 1 + k - a = k + 1 := by omega
        simp only [e1, e2, List.length_cons, List.getD_cons_succ, hb, if_false]
        congr 1
        simp only [eq_iff_iff]; omega
      · simp [hb]; split <;> split <;> first | rfl | omega

theorem Memory.length_readBlock (m : Memory) : ∀ a n, (m.readBlock a n).length = n
  | _, 0 => rfl
  | a, n + 1 => by simp [Memory.readBlock, Memory.length_readBlock m (a + 1) n]

theorem Memory.getD_readBlock (m : Memory) : ∀ a n k d, k < n → (m.readBlock a n).getD k d = m.read (a + k)
  | _, 0, _, _, h => absurd h (by omega)
  | a, n + 1, 0, _, _ => by simp [Memory.readBlock]
  | a, n + 1, k + 1, d, h => by
    rw [Memory.readBlock, List.getD_cons_succ, Memory.getD_readBlock m (a + 1) n k d (by omega)]
    congr 1; omega

theorem Memory.read_loadFrom : ∀ (m : Memory) (a b : Nat) (bs : List Byte), m.wf →
    (m.loadFrom a bs).read b =
      if a ≤ b ∧ b < a + bs.length ∧ b ≤ 0xFFF then bs.getD (b - a) Memory.unlisted else m.read b
  | _, a, b, [], _ => by simp [Memory.loadFrom]; omega
  | m, a, b, v :: bs, h => by
    have hw : (if a ≤ 0xFFF then m.write a v else m).wf := by
      split
      · exact Memory.wf_write h (by unfold memSize; omega)
      · exact h
    rw [Memory.loadFrom, Memory.read_loadFrom _ (a + 1) b bs hw]
    have hr : (if a ≤ 0xFFF then m.write a v else m).read b = if b = a ∧ a ≤ 0xFFF then v else m.read b := by
      split
      · next hle => simp [Memory.read_write m a b v h.1, hle]
      · next hle => simp [hle]
    rw [hr]
    by_cases hb : b = a
    · subst hb; simp
    · by_cases hab : a ≤ b
      · obtain ⟨k, rfl⟩ : ∃ k, b = a + 1 + k := ⟨b - (a + 1), by omega⟩
        have e1 : a + 1 + k - (a + 1) = k := by omega
        have e2 : a + 1 + k - a = k + 1 := by omega
        simp only [e1, e2, List.length_cons, List.getD_cons_succ, hb, false_and, if_false]
        congr 1
        simp only [eq_iff_iff]; omega
      · simp [hb]; split <;> split <;> first | rfl | omega
end Sys2Proof.Machine
end

