-- ==== Sys2Proof/Laws/Ops.lean ====
section
/-!
SUPPORT. What each way a handler or a step can end says about the next state, so that no proof unfolds one of them, and the laws
of frames.
-/

namespace Sys2Proof.Machine

@[simp] theorem State.finish_eq (d : Directive) (s : State) : s.finish d = .next (s.applyDirective d) := rfl

@[simp] theorem State.raise_eq (f : Fault) (s : State) : s.raise f = .next (s.latchFault f) := rfl

@[simp] theorem State.skipIf_eq (s : State) (c : Bool) :
    s.skipIf c = .next (s.applyDirective (if c then .skip else .next)) := rfl

@[simp] theorem reportResult_next (s : State) : reportResult (.next s) = .next s.report := rfl

/-- A directive writes the pc alone. -/
theorem State.applyDirective_eq (d : Directive) (s : State) : s.applyDirective d =
    { s with pc := match d with | .next => s.pc + 2#16 | .skip => s.pc + 4#16 | .jump a => a } := by
  cases d <;> rfl

/-- The advance of the index writes the index alone. -/
theorem State.advanceIndex_eq (s : State) (x : RegIx) : s.advanceIndex x =
    { s with I := if s.cfg.indexAdvance then s.I + BitVec.ofNat 16 (blockCount x) else s.I } := by
  unfold State.advanceIndex; split <;> rfl

/-- The writeback writes the registers alone. -/
theorem State.writeback_eq (s : State) (x : RegIx) (rf : Byte × Bool) : s.writeback x rf =
    { s with V := match s.cfg.flagOrder with
                  | .flagLast => (s.V.set x.toNat rf.1 x.isLt).set VF.toNat (flagByte rf.2) VF.isLt
                  | .flagFirst => (s.V.set VF.toNat (flagByte rf.2) VF.isLt).set x.toNat rf.1 x.isLt } := by
  unfold State.writeback; cases s.cfg.flagOrder <;> rfl

theorem State.applyDirective_if_pc (s : State) (c : Bool) :
    (s.applyDirective (if c then .skip else .next)).pc = if c then s.pc + 4#16 else s.pc + 2#16 := by
  cases c <;> rfl

/-- Taking a fault is what the frame of a fault says. -/
theorem takesFault_latchFault (f : Fault) (s : State) : TakesFault f s (s.latchFault f) := by
  refine ⟨rfl, rfl, fun p hp => ?_⟩
  cases p <;> simp_all [Part.same, State.reg, State.readByte]

/-- Where two states agree on every part outside a list, they agree on every part outside a longer one. -/
theorem SameBut.mono {ps qs : List Part} {s t : State} (h : SameBut ps s t) (hs : ∀ p ∈ ps, p ∈ qs) : SameBut qs s t :=
  fun p hp => h p fun hm => hp (hs p hm)

theorem mem_bytesFrom (a n b : Nat) : Part.byte b ∈ bytesFrom a n ↔ a ≤ b ∧ b < a + n := by
  simp only [bytesFrom, List.mem_map, List.mem_range, Part.byte.injEq]
  constructor
  · rintro ⟨k, hk, rfl⟩; omega
  · rintro ⟨h1, h2⟩; exact ⟨b - a, by omega, by omega⟩

theorem not_byte_mem_bytesFrom {p : Part} {a n : Nat} (h : p ∈ bytesFrom a n) : ∃ b, p = .byte b := by
  obtain ⟨k, -, rfl⟩ := List.mem_map.mp h
  exact ⟨_, rfl⟩

/-- A block the range check lets through lies inside memory. -/
theorem wf_storeAtIndex {s : State} {bs : List Byte} (h : s.MemOk) (hr : outOfRange s.I bs.length = none) :
    (s.storeAtIndex bs).MemOk := by
  unfold State.MemOk at h ⊢
  rcases (outOfRange_eq_none _ _).mp hr with h0 | h0
  · rw [List.length_eq_zero_iff.mp h0]; exact h
  · exact Memory.wf_writeBlock h h0

theorem readByte_storeAtIndex {s : State} {bs : List Byte} (b : Nat) (h : s.MemOk)
    (hr : s.I.toNat + bs.length ≤ 0x1000) :
    (s.storeAtIndex bs).readByte b =
      if s.I.toNat ≤ b ∧ b < s.I.toNat + bs.length then bs.getD (b - s.I.toNat) Memory.unlisted else s.readByte b :=
  Memory.read_writeBlock s.mem s.I.toNat b bs h hr

theorem readByte_loadRom {s : State} (bs : List Byte) (b : Nat) (h : s.MemOk) :
    (s.loadRom bs).readByte b =
      if 0x200 ≤ b ∧ b < 0x200 + bs.length ∧ b ≤ 0xFFF then bs.getD (b - 0x200) Memory.unlisted else s.readByte b :=
  Memory.read_loadFrom s.mem 0x200 b bs h

theorem readBlock_eq_indexBytes (s : State) (n : Nat) : s.mem.readBlock s.I.toNat n = s.indexBytes n := by
  refine List.ext_getElem (by simp [Memory.length_readBlock, State.indexBytes]) fun k h1 h2 => ?_
  rw [Memory.length_readBlock] at h1
  have := Memory.getD_readBlock s.mem s.I.toNat n k Memory.unlisted h1
  rw [List.getD_eq_getElem _ _ (by rwa [Memory.length_readBlock])] at this
  simp [this, State.indexBytes, State.readByte]

/-! ### The host's calls -/

theorem step_scripted {s : State} {c : HostCall} {rest : List HostCall} (h : s.script = c :: rest) :
    step s = (s.setScript rest).runCall c := by
  simp only [step, State.nextCall, State.takeCall, h]

theorem step_unscripted {s : State} (h : s.script = []) :
    step s = ((s.tickMany (Config.freeTicks s.draws)).setDraws (s.draws + 1)).stepCall
      (Config.freeKeys s.draws) (Config.freeRnd s.draws) := by
  simp only [step, State.nextCall, State.takeCall, h, State.runCall]

/-- A transition is a tick, a load, or a step call on a state that differs in timers, script and draws alone. -/
theorem step_is_a_call (s : State) :
    (step s = .next (s.setScript s.script.tail).tickTimers) ∨
    (∃ bs, step s = .next ((s.setScript s.script.tail).loadRom bs)) ∨
    (∃ k r n d, step s = (((s.tickMany n).setScript s.script.tail).setDraws d).stepCall k r) := by
  cases h : s.script with
  | nil =>
    refine .inr (.inr ⟨Config.freeKeys s.draws, Config.freeRnd s.draws, Config.freeTicks s.draws, s.draws + 1,
      (step_unscripted h).trans ?_⟩)
    have e : (s.tickMany (Config.freeTicks s.draws)).setScript [] = s.tickMany (Config.freeTicks s.draws) := by
      conv_rhs => rw [← State.setScript_self (s.tickMany _), State.tickMany_script, h]
    rw [List.tail_nil, e]
  | cons c rest =>
    cases c with
    | tick => exact .inl (step_scripted h)
    | load bs => exact .inr (.inl ⟨bs, step_scripted h⟩)
    | step k r =>
      refine .inr (.inr ⟨k, r, 0, s.draws, (step_scripted h).trans ?_⟩)
      rw [State.tickMany_zero]; rfl

@[simp] theorem runCall_step (k : Keys) (r : Byte) (s : State) : s.runCall (.step k r) = s.stepCall k r := rfl

@[simp] theorem runCall_tick (s : State) : s.runCall .tick = .next s.tickTimers := rfl

@[simp] theorem runCall_load (bs : List Byte) (s : State) : s.runCall (.load bs) = .next (s.loadRom bs) := rfl

theorem stepCall_faulted {s : State} {f : Fault} (k : Keys) (r : Byte) (h : s.fault = some f) :
    s.stepCall k r = .next s.reportFaulted := by
  simp only [State.stepCall, h]

theorem stepCall_waiting {s : State} {x : RegIx} (k : Keys) (r : Byte) (h : s.fault = none)
    (hm : s.mode = .awaitingKey x) : s.stepCall k r = .next ((s.beginStep k r).resume x).report := by
  simp only [State.stepCall, h, State.beginStep_mode, hm]

theorem stepCall_running {s : State} (k : Keys) (r : Byte) (h : s.fault = none) (hm : s.mode = .running) :
    s.stepCall k r = reportResult (s.beginStep k r).runInstr := by
  simp only [State.stepCall, h, State.beginStep_mode, hm]

/-- The three ways a step call can go. -/
theorem stepCall_cases (s : State) (k : Keys) (r : Byte) :
    (∃ f, s.fault = some f ∧ s.stepCall k r = .next s.reportFaulted) ∨
    (∃ x, s.fault = none ∧ s.mode = .awaitingKey x ∧ s.stepCall k r = .next ((s.beginStep k r).resume x).report) ∨
    (s.fault = none ∧ s.mode = .running ∧ s.stepCall k r = reportResult (s.beginStep k r).runInstr) := by
  cases hf : s.fault with
  | some f => exact .inl ⟨f, rfl, stepCall_faulted k r hf⟩
  | none =>
    cases hm : s.mode with
    | awaitingKey x => exact .inr (.inl ⟨x, rfl, rfl, stepCall_waiting k r hf hm⟩)
    | running => exact .inr (.inr ⟨rfl, rfl, stepCall_running k r hf hm⟩)

/-- A scripted step call that finds a fault. -/
theorem step_faulted {s : State} {f : Fault} {k : Keys} {r : Byte} {rest : List HostCall}
    (hs : s.script = .step k r :: rest) (h : s.fault = some f) : step s = .next (s.setScript rest).reportFaulted :=
  (step_scripted hs).trans (stepCall_faulted (s := s.setScript rest) k r h)

/-- A scripted step call in wait mode. -/
theorem step_waiting {s : State} {x : RegIx} {k : Keys} {r : Byte} {rest : List HostCall}
    (hs : s.script = .step k r :: rest) (h : s.fault = none) (hm : s.mode = .awaitingKey x) :
    step s = .next (((s.setScript rest).beginStep k r).resume x).report :=
  (step_scripted hs).trans (stepCall_waiting (s := s.setScript rest) k r h hm)

/-- A scripted step call in mode Running. -/
theorem step_running {s : State} {k : Keys} {r : Byte} {rest : List HostCall}
    (hs : s.script = .step k r :: rest) (h : s.fault = none) (hm : s.mode = .running) :
    step s = reportResult ((s.setScript rest).beginStep k r).runInstr :=
  (step_scripted hs).trans (stepCall_running (s := s.setScript rest) k r h hm)

theorem resume_none {s : State} (x : RegIx) (h : leastKey s.keys = none) : s.resume x = s := by
  simp only [State.resume, h]

theorem resume_some {s : State} (x : RegIx) {k : Nat} (h : leastKey s.keys = some k) :
    s.resume x = { s.setReg x (BitVec.ofNat 8 k) with mode := .running, pc := s.pc + 2#16 } := by
  simp only [State.resume, h]

theorem fetch_eq_none (s : State) : s.fetch = none ↔ 0xFFF < s.pc.toNat + 1 := by
  unfold State.fetch; split <;> simp <;> omega

theorem fetch_eq_some {s : State} (h : s.pc.toNat + 1 ≤ 0xFFF) :
    s.fetch = some (s.readByte s.pc.toNat ++ s.readByte (s.pc.toNat + 1)) := by
  unfold State.fetch; split
  · omega
  · rfl

/-- An instruction runs only from an address inside memory. -/
theorem runInstr_cases (s : State) :
    (0xFFF < s.pc.toNat + 1 ∧ s.runInstr = .next (s.latchFault (.fetchOutOfRange s.pc))) ∨
    (s.pc.toNat + 1 ≤ 0xFFF ∧ ∃ op, s.fetch = some op ∧ s.runInstr = exec (decode op) s) := by
  by_cases h : 0xFFF < s.pc.toNat + 1
  · refine .inl ⟨h, ?_⟩
    simp only [State.runInstr, (fetch_eq_none s).mpr h, State.raise_eq]
  · refine .inr ⟨by omega, _, fetch_eq_some (by omega), ?_⟩
    simp only [State.runInstr, fetch_eq_some (show s.pc.toNat + 1 ≤ 0xFFF by omega)]

/-! ### Placing an instruction -/

/-- Placing an opcode keeps memory canonical, and the next fetch finds it. -/
theorem placeWord_spec {s : State} (op : Word) (h : s.MemOk) : (s.placeWord op).MemOk ∧ (s.placeWord op).fetch = some op := by
  obtain ⟨p, hp, hle⟩ : ∃ p : Word, (if s.pc.toNat + 1 > 0xFFF then 0x0200#16 else s.pc) = p ∧ p.toNat + 1 ≤ 0xFFF := by
    refine ⟨_, rfl, ?_⟩
    split
    · decide
    · omega
  have hw : (s.mem.write p.toNat (highByte op)).wf := Memory.wf_write h (by unfold memSize; omega)
  have hm : (s.placeWord op).mem = (s.mem.write p.toNat (highByte op)).write (p.toNat + 1) (lowByte op) := by rw [← hp]; rfl
  have hpc : (s.placeWord op).pc = p := by rw [← hp]; rfl
  refine ⟨by unfold State.MemOk; rw [hm]; exact Memory.wf_write hw (by unfold memSize; omega), ?_⟩
  rw [fetch_eq_some (by rw [hpc]; exact hle)]
  unfold State.readByte
  rw [hm, hpc, Memory.read_write _ _ _ _ hw.1, Memory.read_write _ _ _ _ hw.1, Memory.read_write _ _ _ _ h.1]
  simpa [wordOfBytes] using wordOfBytes_split op

end Sys2Proof.Machine
end

