-- ==== Sys2Proof/Laws/Exec.lean ====
section
/-!
SUPPORT. How each instruction that can take a fault ends: by the fault under its condition, or by its effect under the opposite
one. The other instructions have the one end their meaning writes out.
-/

namespace Sys2Proof.Machine

theorem exec_ret_cases (s : State) :
    (s.sp.val = 0 ∧ exec .ret s = .next (s.latchFault (.stackUnderflow s.pc))) ∨
    (∃ (h : 0 < s.sp.val) (u : State), s.pop = some (s.stack[s.sp.val - 1]'(by have := s.sp.isLt; omega), u) ∧
      u = { s with sp := ⟨s.sp.val - 1, lt_of_le_of_lt (Nat.sub_le _ _) s.sp.isLt⟩ } ∧
      exec .ret s = .next (u.applyDirective (.jump (s.stack[s.sp.val - 1]'(by have := s.sp.isLt; omega))))) := by
  by_cases h : 0 < s.sp.val
  · exact .inr ⟨h, _, State.pop_of_pos h, rfl, by simp only [exec, execRet, State.pop_of_pos h, State.finish_eq]⟩
  · exact .inl ⟨by omega, by simp only [exec, execRet, (State.pop_eq_none s).mpr (by omega), State.raise_eq]⟩

theorem exec_call_cases (nnn : Addr) (s : State) :
    (s.sp.val = 16 ∧ exec (.call nnn) s = .next (s.latchFault (.stackOverflow s.pc))) ∨
    (∃ (h : s.sp.val < 16) (u : State),
      u = { s with stack := s.stack.set s.sp.val (s.pc + 2#16) h, sp := ⟨s.sp.val + 1, Nat.succ_lt_succ h⟩ } ∧
      exec (.call nnn) s = .next (u.applyDirective (.jump (zextAddr nnn)))) := by
  by_cases h : s.sp.val < 16
  · exact .inr ⟨h, _, rfl, by simp only [exec, execCall, State.push_of_lt _ h, State.finish_eq]⟩
  · have := s.sp.isLt
    have h16 : s.sp.val = 16 := by omega
    exact .inl ⟨h16, by simp only [exec, execCall, (State.push_eq_none s _).mpr h16, State.raise_eq]⟩

theorem keyOperand_eq_none (s : State) (x : RegIx) : s.keyOperand x = none ↔ 0xF < (s.reg x).toNat := by
  unfold State.keyOperand; split <;> simp <;> omega

theorem keyOperand_eq_some {s : State} {x : RegIx} (h : (s.reg x).toNat ≤ 0xF) :
    s.keyOperand x = some ((s.reg x).setWidth 4) := by
  unfold State.keyOperand; rw [if_neg (by omega)]

theorem exec_skp_cases (x : RegIx) (s : State) :
    (0xF < (s.reg x).toNat ∧ exec (.skp x) s = .next (s.latchFault (.keyIndexOutOfRange (s.reg x)))) ∨
    ((s.reg x).toNat ≤ 0xF ∧ exec (.skp x) s =
      .next (s.applyDirective (if s.keyDown ((s.reg x).setWidth 4) then .skip else .next))) := by
  by_cases h : 0xF < (s.reg x).toNat
  · exact .inl ⟨h, by simp only [exec, execSkp, (keyOperand_eq_none s x).mpr h, State.raise_eq]⟩
  · exact .inr ⟨by omega, by simp only [exec, execSkp, keyOperand_eq_some (Nat.le_of_not_lt h), State.skipIf_eq]⟩

theorem exec_sknp_cases (x : RegIx) (s : State) :
    (0xF < (s.reg x).toNat ∧ exec (.sknp x) s = .next (s.latchFault (.keyIndexOutOfRange (s.reg x)))) ∨
    ((s.reg x).toNat ≤ 0xF ∧ exec (.sknp x) s =
      .next (s.applyDirective (if !s.keyDown ((s.reg x).setWidth 4) then .skip else .next))) := by
  by_cases h : 0xF < (s.reg x).toNat
  · exact .inl ⟨h, by simp only [exec, execSknp, (keyOperand_eq_none s x).mpr h, State.raise_eq]⟩
  · exact .inr ⟨by omega, by simp only [exec, execSknp, keyOperand_eq_some (Nat.le_of_not_lt h), State.skipIf_eq]⟩

/-- The range check of a block, either way. -/
theorem outOfRange_cases (base : Word) (n : Nat) :
    (∃ a, outOfRange base n = some a ∧ n ≠ 0 ∧ 0x1000 < base.toNat + n ∧ a.toNat = max base.toNat 0x1000) ∨
    (outOfRange base n = none ∧ (n = 0 ∨ base.toNat + n ≤ 0x1000)) := by
  cases h : outOfRange base n with
  | some a => exact .inl ⟨a, rfl, outOfRange_eq_some _ _ _ h⟩
  | none => exact .inr ⟨rfl, (outOfRange_eq_none _ _).mp h⟩

theorem exec_ldB_cases (x : RegIx) (s : State) :
    (∃ a : Word, 0x1000 < s.I.toNat + 3 ∧ a.toNat = max s.I.toNat 0x1000 ∧
      exec (.ldB x) s = .next (s.latchFault (.memOutOfRange a))) ∨
    (s.I.toNat + 3 ≤ 0x1000 ∧
      exec (.ldB x) s = .next ((s.storeAtIndex (bcdDigits (s.reg x))).applyDirective .next)) := by
  rcases outOfRange_cases s.I 3 with ⟨a, h, -, h1, h2⟩ | ⟨h, h1⟩
  · exact .inl ⟨a, h1, h2, by simp only [exec, execLdB, h, State.raise_eq]⟩
  · exact .inr ⟨by omega, by simp only [exec, execLdB, h, State.finish_eq]⟩

theorem exec_ldMemV_cases (x : RegIx) (s : State) :
    (∃ a : Word, 0x1000 < s.I.toNat + blockCount x ∧ a.toNat = max s.I.toNat 0x1000 ∧
      exec (.ldMemV x) s = .next (s.latchFault (.memOutOfRange a))) ∨
    (s.I.toNat + blockCount x ≤ 0x1000 ∧
      exec (.ldMemV x) s = .next (((s.storeAtIndex (s.regBlock x)).advanceIndex x).applyDirective .next)) := by
  rcases outOfRange_cases s.I (blockCount x) with ⟨a, h, -, h1, h2⟩ | ⟨h, h1⟩
  · exact .inl ⟨a, h1, h2, by simp only [exec, execLdMemV, h, State.raise_eq]⟩
  · exact .inr ⟨by unfold blockCount at h1 ⊢; omega, by simp only [exec, execLdMemV, h, State.finish_eq]⟩

theorem exec_ldVMem_cases (x : RegIx) (s : State) :
    (∃ a : Word, 0x1000 < s.I.toNat + blockCount x ∧ a.toNat = max s.I.toNat 0x1000 ∧
      exec (.ldVMem x) s = .next (s.latchFault (.memOutOfRange a))) ∨
    (s.I.toNat + blockCount x ≤ 0x1000 ∧
      exec (.ldVMem x) s = .next (((s.loadRegBlock x s.I.toNat).advanceIndex x).applyDirective .next)) := by
  rcases outOfRange_cases s.I (blockCount x) with ⟨a, h, -, h1, h2⟩ | ⟨h, h1⟩
  · exact .inl ⟨a, h1, h2, by simp only [exec, execLdVMem, h, State.raise_eq]⟩
  · exact .inr ⟨by unfold blockCount at h1 ⊢; omega, by simp only [exec, execLdVMem, h, State.finish_eq]⟩

theorem exec_drw_cases (x y n : BitVec 4) (s : State) :
    (∃ a : Word, 0 < n.toNat ∧ 0x1000 < s.I.toNat + n.toNat ∧ a.toNat = max s.I.toNat 0x1000 ∧
      exec (.drw x y n) s = .next (s.latchFault (.memOutOfRange a))) ∨
    ((n.toNat = 0 ∨ s.I.toNat + n.toNat ≤ 0x1000) ∧ ∃ drawn,
      drawn = s.fb.drawSprite (s.reg x) (s.reg y) (s.mem.readBlock s.I.toNat n.toNat) ∧
      exec (.drw x y n) s =
        .next (((s.setFramebuffer drawn.1).setReg VF (flagByte drawn.2)).applyDirective .next)) := by
  rcases outOfRange_cases s.I n.toNat with ⟨a, h, h0, h1, h2⟩ | ⟨h, h1⟩
  · exact .inl ⟨a, by omega, h1, h2, by simp only [exec, execDrw, h, State.raise_eq]⟩
  · exact .inr ⟨h1, _, rfl, by simp only [exec, execDrw, h, State.finish_eq]⟩

end Sys2Proof.Machine
end

