-- ==== Sys2Proof/Laws/PerInstr.lean ====
section
/-!
SUPPORT. What holds of every instruction as syntax, one lemma per constructor: its word has the fixed bits of its row of
spec/opcode_table.json.
-/

namespace Sys2Proof.Laws.FixedBits

open Sys2Proof

/-- The `mask` column of the row (spec/opcode_table.json; 30_encoding.md R55). -/
def mask : Instr → Word
  | .cls => 0xFFFF#16
  | .ret => 0xFFFF#16
  | .jp _ => 0xF000#16
  | .call _ => 0xF000#16
  | .jpV0 _ => 0xF000#16
  | .seImm _ _ => 0xF000#16
  | .sneImm _ _ => 0xF000#16
  | .seReg _ _ => 0xF00F#16
  | .sneReg _ _ => 0xF00F#16
  | .skp _ => 0xF0FF#16
  | .sknp _ => 0xF0FF#16
  | .ldImm _ _ => 0xF000#16
  | .addImm _ _ => 0xF000#16
  | .ldReg _ _ => 0xF00F#16
  | .orReg _ _ => 0xF00F#16
  | .andReg _ _ => 0xF00F#16
  | .xorReg _ _ => 0xF00F#16
  | .addReg _ _ => 0xF00F#16
  | .sub _ _ => 0xF00F#16
  | .shr _ _ => 0xF00F#16
  | .subn _ _ => 0xF00F#16
  | .shl _ _ => 0xF00F#16
  | .ldI _ => 0xF000#16
  | .addI _ => 0xF0FF#16
  | .ldF _ => 0xF0FF#16
  | .ldB _ => 0xF0FF#16
  | .ldMemV _ => 0xF0FF#16
  | .ldVMem _ => 0xF0FF#16
  | .rnd _ _ => 0xF000#16
  | .drw _ _ _ => 0xF000#16
  | .ldVDt _ => 0xF0FF#16
  | .ldDtV _ => 0xF0FF#16
  | .ldStV _ => 0xF0FF#16
  | .ldVK _ => 0xF0FF#16
  | .unknown _ => 0x0000#16

/-- The `match` column of the row (spec/opcode_table.json; 30_encoding.md R55). -/
def pattern : Instr → Word
  | .cls => 0x00E0#16
  | .ret => 0x00EE#16
  | .jp _ => 0x1000#16
  | .call _ => 0x2000#16
  | .jpV0 _ => 0xB000#16
  | .seImm _ _ => 0x3000#16
  | .sneImm _ _ => 0x4000#16
  | .seReg _ _ => 0x5000#16
  | .sneReg _ _ => 0x9000#16
  | .skp _ => 0xE09E#16
  | .sknp _ => 0xE0A1#16
  | .ldImm _ _ => 0x6000#16
  | .addImm _ _ => 0x7000#16
  | .ldReg _ _ => 0x8000#16
  | .orReg _ _ => 0x8001#16
  | .andReg _ _ => 0x8002#16
  | .xorReg _ _ => 0x8003#16
  | .addReg _ _ => 0x8004#16
  | .sub _ _ => 0x8005#16
  | .shr _ _ => 0x8006#16
  | .subn _ _ => 0x8007#16
  | .shl _ _ => 0x800E#16
  | .ldI _ => 0xA000#16
  | .addI _ => 0xF01E#16
  | .ldF _ => 0xF029#16
  | .ldB _ => 0xF033#16
  | .ldMemV _ => 0xF055#16
  | .ldVMem _ => 0xF065#16
  | .rnd _ _ => 0xC000#16
  | .drw _ _ _ => 0xD000#16
  | .ldVDt _ => 0xF007#16
  | .ldDtV _ => 0xF015#16
  | .ldStV _ => 0xF018#16
  | .ldVK _ => 0xF00A#16
  | .unknown _ => 0x0000#16

/-- The word of an instruction carries its row's fixed bits. -/
def Statement (i : Instr) : Prop := i.wellFormed = true → encode i &&& mask i = pattern i

/-! ### Masking a packed word -/

theorem and_append {a b : Nat} (x y : BitVec a) (u v : BitVec b) : (x ++ u) &&& (y ++ v) = (x &&& y) ++ (u &&& v) :=
  BitVec.and_append

theorem and_ones (x : BitVec 4) : x &&& 0xF#4 = x := BitVec.and_allOnes

theorem packA_mask (m : BitVec 4) (a : Addr) : packA m a &&& 0xF000#16 = packA m 0x000#12 :=
  (and_append m 0xF#4 a 0x000#12).trans (by rw [and_ones, BitVec.and_zero]; rfl)

theorem packXK_mask (m x : BitVec 4) (k : Byte) : packXK m x k &&& 0xF000#16 = packXK m 0x0#4 0x00#8 :=
  (and_append (m ++ x : Byte) 0xF0#8 k 0x00#8).trans (by
    rw [BitVec.and_zero, show (m ++ x : Byte) &&& 0xF0#8 = m ++ 0x0#4 from
      (and_append m 0xF#4 x 0x0#4).trans (by rw [and_ones, BitVec.and_zero])]; rfl)

theorem packXK_mask_sub (m x : BitVec 4) (k : Byte) : packXK m x k &&& 0xF0FF#16 = packXK m 0x0#4 k :=
  (and_append (m ++ x : Byte) 0xF0#8 k (BitVec.allOnes 8)).trans (by
    rw [BitVec.and_allOnes, show (m ++ x : Byte) &&& 0xF0#8 = m ++ 0x0#4 from
      (and_append m 0xF#4 x 0x0#4).trans (by rw [and_ones, BitVec.and_zero])]; rfl)

theorem packXYN_mask (m x y n : BitVec 4) : packXYN m x y n &&& 0xF000#16 = packXYN m 0x0#4 0x0#4 0x0#4 :=
  packXK_mask m x (y ++ n)

theorem packXYN_mask_sub (m x y n : BitVec 4) : packXYN m x y n &&& 0xF00F#16 = packXYN m 0x0#4 0x0#4 n :=
  (and_append (m ++ x : Byte) 0xF0#8 (y ++ n : Byte) 0x0F#8).trans (by
    rw [show (m ++ x : Byte) &&& 0xF0#8 = m ++ 0x0#4 from
        (and_append m 0xF#4 x 0x0#4).trans (by rw [and_ones, BitVec.and_zero]),
      show (y ++ n : Byte) &&& 0x0F#8 = 0x0#4 ++ n from
        (and_append y 0x0#4 n 0xF#4).trans (by rw [and_ones, BitVec.and_zero])]; rfl)

/-! ### One lemma per constructor -/

theorem cls : Statement .cls := fun _ => rfl
theorem ret : Statement .ret := fun _ => rfl
theorem jp (nnn : Addr) : Statement (.jp nnn) := fun _ => packA_mask _ _
theorem call (nnn : Addr) : Statement (.call nnn) := fun _ => packA_mask _ _
theorem jpV0 (nnn : Addr) : Statement (.jpV0 nnn) := fun _ => packA_mask _ _
theorem seImm (x : RegIx) (kk : Byte) : Statement (.seImm x kk) := fun _ => packXK_mask _ _ _
theorem sneImm (x : RegIx) (kk : Byte) : Statement (.sneImm x kk) := fun _ => packXK_mask _ _ _
theorem seReg (x y : RegIx) : Statement (.seReg x y) := fun _ => packXYN_mask_sub _ _ _ _
theorem sneReg (x y : RegIx) : Statement (.sneReg x y) := fun _ => packXYN_mask_sub _ _ _ _
theorem skp (x : RegIx) : Statement (.skp x) := fun _ => packXK_mask_sub _ _ _
theorem sknp (x : RegIx) : Statement (.sknp x) := fun _ => packXK_mask_sub _ _ _
theorem ldImm (x : RegIx) (kk : Byte) : Statement (.ldImm x kk) := fun _ => packXK_mask _ _ _
theorem addImm (x : RegIx) (kk : Byte) : Statement (.addImm x kk) := fun _ => packXK_mask _ _ _
theorem ldReg (x y : RegIx) : Statement (.ldReg x y) := fun _ => packXYN_mask_sub _ _ _ _
theorem orReg (x y : RegIx) : Statement (.orReg x y) := fun _ => packXYN_mask_sub _ _ _ _
theorem andReg (x y : RegIx) : Statement (.andReg x y) := fun _ => packXYN_mask_sub _ _ _ _
theorem xorReg (x y : RegIx) : Statement (.xorReg x y) := fun _ => packXYN_mask_sub _ _ _ _
theorem addReg (x y : RegIx) : Statement (.addReg x y) := fun _ => packXYN_mask_sub _ _ _ _
theorem sub (x y : RegIx) : Statement (.sub x y) := fun _ => packXYN_mask_sub _ _ _ _
theorem shr (x y : RegIx) : Statement (.shr x y) := fun _ => packXYN_mask_sub _ _ _ _
theorem subn (x y : RegIx) : Statement (.subn x y) := fun _ => packXYN_mask_sub _ _ _ _
theorem shl (x y : RegIx) : Statement (.shl x y) := fun _ => packXYN_mask_sub _ _ _ _
theorem ldI (nnn : Addr) : Statement (.ldI nnn) := fun _ => packA_mask _ _
theorem addI (x : RegIx) : Statement (.addI x) := fun _ => packXK_mask_sub _ _ _
theorem ldF (x : RegIx) : Statement (.ldF x) := fun _ => packXK_mask_sub _ _ _
theorem ldB (x : RegIx) : Statement (.ldB x) := fun _ => packXK_mask_sub _ _ _
theorem ldMemV (x : RegIx) : Statement (.ldMemV x) := fun _ => packXK_mask_sub _ _ _
theorem ldVMem (x : RegIx) : Statement (.ldVMem x) := fun _ => packXK_mask_sub _ _ _
theorem rnd (x : RegIx) (kk : Byte) : Statement (.rnd x kk) := fun _ => packXK_mask _ _ _
theorem drw (x y n : BitVec 4) : Statement (.drw x y n) := fun _ => packXYN_mask _ _ _ _
theorem ldVDt (x : RegIx) : Statement (.ldVDt x) := fun _ => packXK_mask_sub _ _ _
theorem ldDtV (x : RegIx) : Statement (.ldDtV x) := fun _ => packXK_mask_sub _ _ _
theorem ldStV (x : RegIx) : Statement (.ldStV x) := fun _ => packXK_mask_sub _ _ _
theorem ldVK (x : RegIx) : Statement (.ldVK x) := fun _ => packXK_mask_sub _ _ _
theorem unknown (op : Word) : Statement (.unknown op) := fun _ => BitVec.and_zero

end Sys2Proof.Laws.FixedBits
end

