-- ==== Sys2Proof/Tests/Slice0.lean ====
section
/-!
SUPPORT. The model's own tests: ill-formed terms that WellFormed refuses, words written out from the spec's encodings, single
steps on small states with results from spec/95_test_vectors.md, and for each obligation with hypotheses a witness that meets
them.
-/

namespace Sys2Proof.Tests

open Sys2Proof Sys2Proof.Machine

/-! ## Helpers -/

/-- The reset state changed by `f`, with an opcode placed and one `step` call to come, no key pressed and random byte 0: the
conventions of spec/95_test_vectors.md. -/
def start (op : Word) (f : State → State) : State :=
  { (f State.reset).placeWord op with script := [.step 0x0000#16 0x00#8] }

/-- The state after one transition. -/
def after (s : State) : State :=
  match step s with
  | .next t => t
  | .fault _ => s
  | .refused _ => s

/-- Registers written. -/
def regs (rs : List (RegIx × Byte)) (s : State) : State := rs.foldl (fun s rv => s.setReg rv.1 rv.2) s

/-- Bytes of memory written. -/
def bytes (a : Nat) (bs : List Byte) (s : State) : State := { s with mem := s.mem.writeBlock a bs }

/-- The pc set. -/
def atPc (a : Word) (s : State) : State := { s with pc := a }

/-! ## WellFormed refuses -/

/-- The sentinel cannot carry the word of `00E0`. -/
theorem test_wellFormed_refuses_0nnn : (Instr.unknown 0x00E0#16).wellFormed = false := by decide

/-- The sentinel cannot carry the word of `00EE`. -/
theorem test_wellFormed_refuses_ret : (Instr.unknown 0x00EE#16).wellFormed = false := by decide

/-- The sentinel cannot carry a word of `1nnn`. -/
theorem test_wellFormed_refuses_1nnn : (Instr.unknown 0x1ABC#16).wellFormed = false := by decide

/-- The sentinel cannot carry a word of `5xy0`. -/
theorem test_wellFormed_refuses_5xy0 : (Instr.unknown 0x5010#16).wellFormed = false := by decide

/-- The sentinel cannot carry a word of `8xy4`. -/
theorem test_wellFormed_refuses_8xy4 : (Instr.unknown 0x8014#16).wellFormed = false := by decide

/-- The sentinel cannot carry a word of `9xy0`. -/
theorem test_wellFormed_refuses_9xy0 : (Instr.unknown 0x9010#16).wellFormed = false := by decide

/-- The sentinel cannot carry a word of `Ex9E`. -/
theorem test_wellFormed_refuses_Ex9E : (Instr.unknown 0xE09E#16).wellFormed = false := by decide

/-- The sentinel cannot carry a word of `Fx55`. -/
theorem test_wellFormed_refuses_Fx55 : (Instr.unknown 0xF055#16).wellFormed = false := by decide

/-- The sentinel may carry an undefined word. -/
theorem test_wellFormed_admits_unknown : (Instr.unknown 0x5011#16).wellFormed = true := by decide

/-! ## Decoding, each word written out from the opcode map (30_encoding.md R55) -/

theorem test_decode_cls : decodeTableWord 16 0x00E0 = some (.cls) ∧ encode (.cls) = 0x00E0#16 := by decide
theorem test_decode_ret : decodeTableWord 16 0x00EE = some (.ret) ∧ encode (.ret) = 0x00EE#16 := by decide
theorem test_decode_jp : decodeTableWord 16 0x1ABC = some (.jp 0xABC#12) ∧ encode (.jp 0xABC#12) = 0x1ABC#16 := by decide
theorem test_decode_call : decodeTableWord 16 0x2208 = some (.call 0x208#12) ∧ encode (.call 0x208#12) = 0x2208#16 := by decide
theorem test_decode_jpV0 : decodeTableWord 16 0xB123 = some (.jpV0 0x123#12) ∧ encode (.jpV0 0x123#12) = 0xB123#16 := by decide
theorem test_decode_seImm : decodeTableWord 16 0x3A42 = some (.seImm 0xA#4 0x42#8) ∧ encode (.seImm 0xA#4 0x42#8) = 0x3A42#16 := by decide
theorem test_decode_sneImm : decodeTableWord 16 0x4B17 = some (.sneImm 0xB#4 0x17#8) ∧ encode (.sneImm 0xB#4 0x17#8) = 0x4B17#16 := by decide
theorem test_decode_seReg : decodeTableWord 16 0x5120 = some (.seReg 0x1#4 0x2#4) ∧ encode (.seReg 0x1#4 0x2#4) = 0x5120#16 := by decide
theorem test_decode_sneReg : decodeTableWord 16 0x9C30 = some (.sneReg 0xC#4 0x3#4) ∧ encode (.sneReg 0xC#4 0x3#4) = 0x9C30#16 := by decide
theorem test_decode_skp : decodeTableWord 16 0xE79E = some (.skp 0x7#4) ∧ encode (.skp 0x7#4) = 0xE79E#16 := by decide
theorem test_decode_sknp : decodeTableWord 16 0xE8A1 = some (.sknp 0x8#4) ∧ encode (.sknp 0x8#4) = 0xE8A1#16 := by decide
theorem test_decode_ldImm : decodeTableWord 16 0x6A2F = some (.ldImm 0xA#4 0x2F#8) ∧ encode (.ldImm 0xA#4 0x2F#8) = 0x6A2F#16 := by decide
theorem test_decode_addImm : decodeTableWord 16 0x7102 = some (.addImm 0x1#4 0x02#8) ∧ encode (.addImm 0x1#4 0x02#8) = 0x7102#16 := by decide
theorem test_decode_ldReg : decodeTableWord 16 0x8120 = some (.ldReg 0x1#4 0x2#4) ∧ encode (.ldReg 0x1#4 0x2#4) = 0x8120#16 := by decide
theorem test_decode_orReg : decodeTableWord 16 0x8341 = some (.orReg 0x3#4 0x4#4) ∧ encode (.orReg 0x3#4 0x4#4) = 0x8341#16 := by decide
theorem test_decode_andReg : decodeTableWord 16 0x8562 = some (.andReg 0x5#4 0x6#4) ∧ encode (.andReg 0x5#4 0x6#4) = 0x8562#16 := by decide
theorem test_decode_xorReg : decodeTableWord 16 0x8783 = some (.xorReg 0x7#4 0x8#4) ∧ encode (.xorReg 0x7#4 0x8#4) = 0x8783#16 := by decide
theorem test_decode_addReg : decodeTableWord 16 0x89A4 = some (.addReg 0x9#4 0xA#4) ∧ encode (.addReg 0x9#4 0xA#4) = 0x89A4#16 := by decide
theorem test_decode_sub : decodeTableWord 16 0x8BC5 = some (.sub 0xB#4 0xC#4) ∧ encode (.sub 0xB#4 0xC#4) = 0x8BC5#16 := by decide
theorem test_decode_shr : decodeTableWord 16 0x8DE6 = some (.shr 0xD#4 0xE#4) ∧ encode (.shr 0xD#4 0xE#4) = 0x8DE6#16 := by decide
theorem test_decode_subn : decodeTableWord 16 0x8F07 = some (.subn 0xF#4 0x0#4) ∧ encode (.subn 0xF#4 0x0#4) = 0x8F07#16 := by decide
theorem test_decode_shl : decodeTableWord 16 0x812E = some (.shl 0x1#4 0x2#4) ∧ encode (.shl 0x1#4 0x2#4) = 0x812E#16 := by decide
theorem test_decode_ldI : decodeTableWord 16 0xA300 = some (.ldI 0x300#12) ∧ encode (.ldI 0x300#12) = 0xA300#16 := by decide
theorem test_decode_addI : decodeTableWord 16 0xF51E = some (.addI 0x5#4) ∧ encode (.addI 0x5#4) = 0xF51E#16 := by decide
theorem test_decode_ldF : decodeTableWord 16 0xF129 = some (.ldF 0x1#4) ∧ encode (.ldF 0x1#4) = 0xF129#16 := by decide
theorem test_decode_ldB : decodeTableWord 16 0xF233 = some (.ldB 0x2#4) ∧ encode (.ldB 0x2#4) = 0xF233#16 := by decide
theorem test_decode_ldMemV : decodeTableWord 16 0xF355 = some (.ldMemV 0x3#4) ∧ encode (.ldMemV 0x3#4) = 0xF355#16 := by decide
theorem test_decode_ldVMem : decodeTableWord 16 0xF465 = some (.ldVMem 0x4#4) ∧ encode (.ldVMem 0x4#4) = 0xF465#16 := by decide
theorem test_decode_rnd : decodeTableWord 16 0xC50F = some (.rnd 0x5#4 0x0F#8) ∧ encode (.rnd 0x5#4 0x0F#8) = 0xC50F#16 := by decide
theorem test_decode_drw : decodeTableWord 16 0xD123 = some (.drw 0x1#4 0x2#4 0x3#4) ∧ encode (.drw 0x1#4 0x2#4 0x3#4) = 0xD123#16 := by decide
theorem test_decode_ldVDt : decodeTableWord 16 0xF607 = some (.ldVDt 0x6#4) ∧ encode (.ldVDt 0x6#4) = 0xF607#16 := by decide
theorem test_decode_ldDtV : decodeTableWord 16 0xF715 = some (.ldDtV 0x7#4) ∧ encode (.ldDtV 0x7#4) = 0xF715#16 := by decide
theorem test_decode_ldStV : decodeTableWord 16 0xF818 = some (.ldStV 0x8#4) ∧ encode (.ldStV 0x8#4) = 0xF818#16 := by decide
theorem test_decode_ldVK : decodeTableWord 16 0xF90A = some (.ldVK 0x9#4) ∧ encode (.ldVK 0x9#4) = 0xF90A#16 := by decide
theorem test_decode_unknown : decodeTableWord 16 0x8018 = some (.unknown 0x8018#16) ∧ encode (.unknown 0x8018#16) = 0x8018#16 := by decide

/-- Fewer than two bytes hold no instruction. -/
theorem test_decodeBytes_truncated : decodeBytes [0x12#8] = .error .truncated := by rfl

/-! ## Single steps (95_test_vectors.md, L1 and L2; the docstring or name gives the vector's id) -/

/-- Vector S-1, but for the random input: an unplaced step from reset. -/
theorem test_step_unloaded : (after { State.reset with script := [.step 0x0000#16 0x00#8] }).pc = 0x0202#16 := by decide

/-- Vector C-2. -/
theorem test_cls_touches :
    let t := after (start 0x00E0#16 id)
    t.out.vramChanged = true ∧ t.pc = 0x0202#16 := by decide

/-- Vector C-1. -/
theorem test_cls_clears :
    let t := after (start 0x00E0#16 (fun s => { s with fb := s.fb.toggle 63 31 }))
    t.fb.pixel 63 31 = false := by decide

/-- Vector C-3. -/
theorem test_ret_underflow :
    let t := after (start 0x00EE#16 id)
    t.fault = some (.stackUnderflow 0x0200#16) ∧ t.pc = 0x0200#16 ∧ t.sp = 0 := by decide

/-- Vector C-4. -/
theorem test_ret_keeps_entry :
    let t := after (start 0x00EE#16 (fun s => { s with sp := 1, stack := s.stack.set 0 0x0202#16, pc := 0x0300#16 }))
    t.pc = 0x0202#16 ∧ t.sp = 0 ∧ t.stack[0] = 0x0202#16 := by decide

/-- Vector C-5. -/
theorem test_jp :
    let t := after (start 0x1ABC#16 id)
    t.pc = 0x0ABC#16 := by decide

/-- Vector C-6. -/
theorem test_jp_odd :
    let t := after (start 0x1201#16 id)
    t.pc = 0x0201#16 := by decide

/-- Vector C-9. -/
theorem test_call_last_entry :
    let t := after (start 0x2300#16 (fun s => { s with sp := 15 }))
    t.stack[15] = 0x0202#16 ∧ t.sp = 16 ∧ t.pc = 0x0300#16 := by decide

/-- Vector C-10. -/
theorem test_call_overflow :
    let t := after (start 0x2300#16 (fun s => { s with sp := 16 }))
    t.fault = some (.stackOverflow 0x0200#16) ∧ t.sp = 16 ∧ t.pc = 0x0200#16 := by decide

/-- Vector C-13. -/
theorem test_jpV0_unmasked :
    let t := after (start 0xBFFF#16 (regs [(0x0#4, 0xFF#8)]))
    t.pc = 0x10FE#16 := by decide

/-- Vector C-14. -/
theorem test_jpV0_uses_V0 :
    let t := after (start 0xB500#16 (regs [(0x5#4, 0x40#8)]))
    t.pc = 0x0500#16 := by decide

/-- Vector D-6. -/
theorem test_unknown_reports :
    let t := after (start 0x8018#16 id)
    t.out.unknown = some 0x8018#16 ∧ t.pc = 0x0202#16 := by decide

/-- Vector K-1. -/
theorem test_seImm_skips :
    let t := after (start 0x3342#16 (regs [(0x3#4, 0x42#8)]))
    t.pc = 0x0204#16 := by decide

/-- Vector K-2. -/
theorem test_seImm_advances :
    let t := after (start 0x3342#16 (regs [(0x3#4, 0x41#8)]))
    t.pc = 0x0202#16 := by decide

/-- Vector K-3. -/
theorem test_sneImm_skips :
    let t := after (start 0x4342#16 (regs [(0x3#4, 0x41#8)]))
    t.pc = 0x0204#16 := by decide

/-- Vector K-4. -/
theorem test_sneImm_advances :
    let t := after (start 0x4342#16 (regs [(0x3#4, 0x42#8)]))
    t.pc = 0x0202#16 := by decide

/-- Vector K-5. -/
theorem test_seReg_skips :
    let t := after (start 0x5010#16 (regs [(0x0#4, 0x05#8), (0x1#4, 0x05#8)]))
    t.pc = 0x0204#16 := by decide

/-- Vector K-6. -/
theorem test_seReg_advances :
    let t := after (start 0x5010#16 (regs [(0x0#4, 0x05#8), (0x1#4, 0x06#8)]))
    t.pc = 0x0202#16 := by decide

/-- Vector K-8. -/
theorem test_sneReg_skips :
    let t := after (start 0x9010#16 (regs [(0x0#4, 0x01#8), (0x1#4, 0x02#8)]))
    t.pc = 0x0204#16 := by decide

/-- Vector K-9. -/
theorem test_sneReg_advances :
    let t := after (start 0x9330#16 id)
    t.pc = 0x0202#16 := by decide

/-- Vectors K-11 and K-13: `Ex9E` reads the snapshot of its own step. -/
theorem test_skp_reads_snapshot :
    let s := start 0xE09E#16 (regs [(0x0#4, 0x0A#8)])
    (after { s with script := [.step 0x0400#16 0x00#8] }).pc = 0x0204#16 ∧ (after s).pc = 0x0202#16 := by decide

/-- Vector K-15. -/
theorem test_skp_no_key_number :
    let t := after (start 0xE09E#16 (regs [(0x0#4, 0xFF#8)]))
    t.fault = some (.keyIndexOutOfRange 0xFF#8) ∧ t.pc = 0x0200#16 := by decide

/-- Vectors K-12 and K-14. -/
theorem test_sknp_reads_snapshot :
    let s := start 0xE0A1#16 (regs [(0x0#4, 0x0A#8)])
    (after { s with script := [.step 0x0400#16 0x00#8] }).pc = 0x0202#16 ∧ (after s).pc = 0x0204#16 := by decide

/-- Vector K-16. -/
theorem test_sknp_no_key_number :
    let t := after (start 0xE2A1#16 (regs [(0x2#4, 0x10#8)]))
    t.fault = some (.keyIndexOutOfRange 0x10#8) ∧ t.pc = 0x0200#16 := by decide

/-- Vector A-1. -/
theorem test_ldImm :
    let t := after (start 0x6A2F#16 id)
    t.reg 0xA#4 = 0x2F#8 ∧ t.pc = 0x0202#16 := by decide

/-- Vector A-2. -/
theorem test_addImm_no_carry :
    let t := after (start 0x7002#16 (regs [(0x0#4, 0xFF#8), (0xF#4, 0x55#8)]))
    t.reg 0x0#4 = 0x01#8 ∧ t.reg VF = 0x55#8 := by decide

/-- Vector A-3. -/
theorem test_ldReg :
    let t := after (start 0x8010#16 (regs [(0x1#4, 0x33#8)]))
    t.reg 0x0#4 = 0x33#8 := by decide

/-- Vector A-4. -/
theorem test_orReg :
    let t := after (start 0x8011#16 (regs [(0x0#4, 0xF0#8), (0x1#4, 0x3C#8), (0xF#4, 0x77#8)]))
    t.reg 0x0#4 = 0xFC#8 ∧ t.reg VF = 0x77#8 := by decide

/-- Vector A-5. -/
theorem test_andReg :
    let t := after (start 0x8012#16 (regs [(0x0#4, 0xF0#8), (0x1#4, 0x3C#8), (0xF#4, 0x77#8)]))
    t.reg 0x0#4 = 0x30#8 ∧ t.reg VF = 0x77#8 := by decide

/-- Vector A-6. -/
theorem test_xorReg :
    let t := after (start 0x8013#16 (regs [(0x0#4, 0xF0#8), (0x1#4, 0x3C#8), (0xF#4, 0x77#8)]))
    t.reg 0x0#4 = 0xCC#8 ∧ t.reg VF = 0x77#8 := by decide

/-- Vector A-7. -/
theorem test_xorReg_self :
    let t := after (start 0x8443#16 (regs [(0x4#4, 0x5A#8)]))
    t.reg 0x4#4 = 0x00#8 := by decide

/-- Vector L1.3. -/
theorem test_addReg_carry :
    let t := after (start 0x8014#16 (regs [(0x0#4, 0xFF#8), (0x1#4, 0x01#8)]))
    t.reg 0x0#4 = 0x00#8 ∧ t.reg VF = 0x01#8 := by decide

/-- Vector A-12, in both orders. -/
theorem test_addReg_to_VF :
    let s := start 0x8F14#16 (regs [(0xF#4, 0x10#8), (0x1#4, 0xF0#8)])
    (after s).reg VF = 0x01#8 ∧ (after { s with cfg := { flagOrder := .flagFirst } }).reg VF = 0x00#8 := by decide

/-- Vector A-14. -/
theorem test_sub_equal :
    let t := after (start 0x8015#16 (regs [(0x0#4, 0x05#8), (0x1#4, 0x05#8)]))
    t.reg 0x0#4 = 0x00#8 ∧ t.reg VF = 0x00#8 := by decide

/-- Vector L1.4. -/
theorem test_sub_borrow :
    let t := after (start 0x8015#16 (regs [(0x0#4, 0x01#8), (0x1#4, 0x02#8)]))
    t.reg 0x0#4 = 0xFF#8 ∧ t.reg VF = 0x00#8 := by decide

/-- Vector A-22. -/
theorem test_shr :
    let t := after (start 0x8206#16 (regs [(0x2#4, 0x07#8)]))
    t.reg 0x2#4 = 0x03#8 ∧ t.reg VF = 0x01#8 := by decide

/-- Vector A-28, `SHIFT_SOURCE = Vy`. -/
theorem test_shr_of_Vy :
    let t := after (start 0x8016#16 fun s => { regs [(0x0#4, 0x01#8), (0x1#4, 0xFE#8)] s with cfg := { shiftSource := .vy } })
    t.reg 0x0#4 = 0x7F#8 ∧ t.reg VF = 0x00#8 ∧ t.reg 0x1#4 = 0xFE#8 := by decide

/-- Vector A-20. -/
theorem test_subn :
    let t := after (start 0x8017#16 (regs [(0x0#4, 0x01#8), (0x1#4, 0x02#8)]))
    t.reg 0x0#4 = 0x01#8 ∧ t.reg VF = 0x01#8 := by decide

/-- Vector A-19. -/
theorem test_subn_borrow :
    let t := after (start 0x8017#16 (regs [(0x0#4, 0x02#8), (0x1#4, 0x01#8)]))
    t.reg 0x0#4 = 0xFF#8 ∧ t.reg VF = 0x00#8 := by decide

/-- Vector A-25. -/
theorem test_shl :
    let t := after (start 0x820E#16 (regs [(0x2#4, 0x81#8)]))
    t.reg 0x2#4 = 0x02#8 ∧ t.reg VF = 0x01#8 := by decide

/-- Vector A-29, `SHIFT_SOURCE = Vy`. -/
theorem test_shl_of_Vy :
    let t := after (start 0x801E#16 fun s => { regs [(0x0#4, 0x01#8), (0x1#4, 0x81#8)] s with cfg := { shiftSource := .vy } })
    t.reg 0x0#4 = 0x02#8 ∧ t.reg VF = 0x01#8 := by decide

/-- Vector M-1. -/
theorem test_ldI :
    let t := after (start 0xA300#16 id)
    t.I = 0x0300#16 := by decide

/-- Vector M-3. -/
theorem test_addI :
    let t := after (start 0xF01E#16 (fun s => { regs [(0x0#4, 0x01#8), (0xF#4, 0x77#8)] s with I := 0x0FFF#16 }))
    t.I = 0x1000#16 ∧ t.reg VF = 0x77#8 ∧ t.fault = none := by decide

/-- Vector M-4. -/
theorem test_addI_wraps :
    let t := after (start 0xF01E#16 (fun s => { regs [(0x0#4, 0x02#8)] s with I := 0xFFFF#16 }))
    t.I = 0x0001#16 := by decide

/-- Vector M-6. -/
theorem test_ldF_low_nibble :
    let t := after (start 0xF029#16 (regs [(0x0#4, 0x1A#8)]))
    t.I = 0x0032#16 := by decide

/-- Vector M-7. -/
theorem test_ldF_base :
    let t := after (start 0xF029#16 (fun s => { regs [(0x0#4, 0x0F#8)] s with cfg := { glyphBase := 0x0050#16 } }))
    t.I = 0x009B#16 := by decide

/-- Vector M-8. -/
theorem test_ldB :
    let t := after (start 0xF033#16 (fun s => { regs [(0x0#4, 0xFE#8)] s with I := 0x0300#16 }))
    t.readByte 0x300 = 0x02#8 ∧ t.readByte 0x301 = 0x05#8 ∧ t.readByte 0x302 = 0x04#8 ∧ t.I = 0x0300#16 := by decide

/-- Vector M-11. -/
theorem test_ldB_outside :
    let t := after (start 0xF033#16 (fun s => { regs [(0x0#4, 0xFF#8)] s with I := 0x0FFE#16 }))
    t.fault = some (.memOutOfRange 0x1000#16) ∧ t.readByte 0xFFE = 0x00#8 := by decide

/-- Vector M-12. -/
theorem test_ldMemV :
    let t := after (start 0xF255#16 (fun s => { regs [(0x0#4, 0x01#8), (0x1#4, 0x02#8), (0x2#4, 0x03#8)] s with I := 0x0300#16 }))
    t.readByte 0x300 = 0x01#8 ∧ t.readByte 0x302 = 0x03#8 ∧ t.I = 0x0303#16 := by decide

/-- Vector M-14. -/
theorem test_ldMemV_last_byte :
    let t := after (start 0xF055#16 (fun s => { regs [(0x0#4, 0x09#8)] s with I := 0x0FFF#16 }))
    t.readByte 0xFFF = 0x09#8 ∧ t.I = 0x1000#16 := by decide

/-- Vector M-20. -/
theorem test_ldVMem :
    let t := after (start 0xF265#16 (fun s => { bytes 0x300 [0x02#8, 0x05#8, 0x04#8] s with I := 0x0300#16 }))
    t.reg 0x0#4 = 0x02#8 ∧ t.reg 0x2#4 = 0x04#8 ∧ t.I = 0x0303#16 := by decide

/-- Vector M-17. -/
theorem test_ldVMem_outside :
    let t := after (start 0xF065#16 (fun s => { s with I := 0x2000#16 }))
    t.fault = some (.memOutOfRange 0x2000#16) := by decide

/-- Vector O-1. -/
theorem test_rnd :
    (after { start 0xC30F#16 id with script := [.step 0x0000#16 0xB7#8] }).reg 0x3#4 = 0x07#8 := by decide

/-- Vector O-4. -/
theorem test_drw_wraps :
    let t := after (start 0xD011#16 (fun s => { regs [(0x0#4, 0x3F#8)] (bytes 0x20C [0xC0#8] s) with I := 0x020C#16 }))
    t.fb.pixel 63 0 = true ∧ t.fb.pixel 0 0 = true ∧ t.fb.pixel 1 0 = false ∧ t.reg VF = 0x00#8 ∧ t.out.vramChanged = true := by decide

/-- Vector O-9. -/
theorem test_drw_no_rows :
    let t := after (start 0xD010#16 (fun s => { regs [(0xF#4, 0x33#8)] s with I := 0x5000#16 }))
    t.fault = none ∧ t.fb.pixel 0 0 = false ∧ t.reg VF = 0x00#8 ∧ t.out.vramChanged = true := by decide

/-- Vector O-13. -/
theorem test_ldVDt :
    let t := after (start 0xF407#16 (fun s => { s with DT := 0x3C#8 }))
    t.reg 0x4#4 = 0x3C#8 := by decide

/-- Vector O-14. -/
theorem test_ldDtV :
    let t := after (start 0xF415#16 (regs [(0x4#4, 0x3C#8)]))
    t.DT = 0x3C#8 := by decide

/-- Vector O-15. -/
theorem test_ldStV :
    let t := after (start 0xF418#16 (regs [(0x4#4, 0x05#8)]))
    t.ST = 0x05#8 := by decide

/-- Vector O-17: the executing step looks at no key. -/
theorem test_ldVK :
    let t := after { start 0xF30A#16 id with script := [.step 0x0400#16 0x00#8] }
    t.mode = .awaitingKey 0x3#4 ∧ t.pc = 0x0200#16 ∧ t.reg 0x3#4 = 0x00#8 := by decide

/-- Vector O-18: the least pressed key ends the wait. -/
theorem test_resume :
    let t := after { State.reset with mode := .awaitingKey 0x3#4, script := [.step 0x0880#16 0x00#8] }
    t.mode = .running ∧ t.pc = 0x0202#16 ∧ t.reg 0x3#4 = 0x07#8 := by decide

/-- Vector S-2. -/
theorem test_fetch_outside :
    (after { State.reset with pc := 0x0FFF#16, script := [.step 0x0000#16 0x00#8] }).fault =
      some (.fetchOutOfRange 0x0FFF#16) := by decide

/-- Vectors S-6 and L1.8: a tick acts in the faulted state and stops at zero. -/
theorem test_tick :
    let t := after { State.reset with DT := 0x03#8, fault := some (.stackUnderflow 0x0202#16), script := [.tick] }
    t.DT = 0x02#8 ∧ t.ST = 0x00#8 := by decide

/-- Vector S-10: a load copies to 0x200 and moves no pc. -/
theorem test_load :
    let t := after { State.reset with script := [.load [0x12#8, 0x34#8]] }
    t.readByte 0x200 = 0x12#8 ∧ t.readByte 0x201 = 0x34#8 ∧ t.pc = 0x0200#16 := by decide

/-- The end of memory: a byte that would lie above 0xFFF is dropped (40_sequencing.md R75). -/
theorem test_load_truncates : Memory.loadFrom [] 0xFFF [0xAA#8, 0xBB#8] = [(0xFFF, 0xAA#8)] := by decide

/-- Two words of the opcode map, from reset with no call scripted: the next step runs the word placed. -/
theorem test_withFetchWord :
    (after (State.reset.withFetchWord 16 0x1ABC)).pc = 0x0ABC#16 ∧
      (after (State.reset.withFetchWord 16 0x6A2F)).reg 0xA#4 = 0x2F#8 := by decide

/-! ## Witnesses: the hypotheses of each obligation can be met together, each clause at a boundary -/

/-- A state with bytes in memory, in no reset field's shadow. -/
def busy (f : State → State) : State := f (bytes 0xFFE [0x12#8, 0x34#8] State.reset)

theorem busy_memOk (f : State → State) (h : ∀ s, (f s).mem = s.mem) : (busy f).MemOk := by
  unfold State.MemOk busy; rw [h]; decide

/-- The last address a fetch may begin at, with a call scripted and with none. -/
theorem witness_StepRunsTheDecodedInstruction :
    ∃ s u : State, s.fault = none ∧ s.mode = .running ∧ s.pc.toNat + 1 = 0xFFF ∧
      decode (s.readByte s.pc.toNat ++ s.readByte (s.pc.toNat + 1)) = .jp 0x234#12 ∧ s.script = [.step 0x0001#16 0x02#8] ∧
      u.fault = none ∧ u.mode = .running ∧ u.pc.toNat + 1 = 0xFFF ∧
      decode (u.readByte u.pc.toNat ++ u.readByte (u.pc.toNat + 1)) = .jp 0x234#12 ∧ u.script = [] := 
  ⟨busy fun s => { s with pc := 0x0FFE#16, script := [.step 0x0001#16 0x02#8] }, busy fun s => { s with pc := 0x0FFE#16 },
    by decide⟩

/-- The last address a fetch may begin at. -/
theorem witness_FetchIsBigEndian :
    ∃ s : State, s.pc.toNat + 1 = 0xFFF := ⟨busy (atPc 0x0FFE#16), by decide⟩

/-- The first address a fetch may not begin at. -/
theorem witness_FetchOutsideMemoryFaults :
    ∃ (s : State) (k : Keys) (r : Byte) (rest : List HostCall), s.script = .step k r :: rest ∧ s.fault = none ∧
      s.mode = .running ∧ 0xFFF = s.pc.toNat := 
  ⟨busy fun s => { s with pc := 0x0FFF#16, script := [.step 0x8001#16 0x05#8, .tick] }, 0x8001#16, 0x05#8, [.tick], by decide⟩

/-- A latched fault and a step call with keys pressed (vector S-5). -/
theorem witness_FaultedStepChangesNothing :
    ∃ (s : State) (f : Fault) (k : Keys) (r : Byte) (rest : List HostCall), s.script = .step k r :: rest ∧ s.fault = some f := 
  ⟨busy fun s => { s with fault := some (.stackUnderflow 0x0202#16), script := [.step 0xFFFF#16 0x00#8] },
    .stackUnderflow 0x0202#16, 0xFFFF#16, 0x00#8, [], by decide⟩

/-- A latched fault and a load to come. -/
theorem witness_FaultStaysLatched :
    ∃ (s : State) (f : Fault), s.MemOk ∧ s.fault = some f := 
  ⟨busy fun s => { s with fault := some (.stackUnderflow 0x0202#16), script := [.load [0x01#8]] },
    .stackUnderflow 0x0202#16, busy_memOk _ fun _ => rfl, by decide⟩

/-- Waiting for the last register, no key pressed. -/
theorem witness_WaitingStepWithoutAKeyStays :
    ∃ (s : State) (x : RegIx) (r : Byte) (rest : List HostCall), s.script = .step 0x0000#16 r :: rest ∧ s.fault = none ∧
      s.mode = .awaitingKey x := 
  ⟨busy fun s => { s with mode := .awaitingKey 0xF#4, script := [.step 0x0000#16 0x07#8] }, 0xF#4, 0x07#8, [], by decide⟩

/-- The last key alone, and the first of two. -/
theorem witness_WaitingStepTakesTheLeastKey :
    ∃ s : State, s.script = [.step 0x8000#16 0x00#8] ∧ s.fault = none ∧ s.mode = .awaitingKey VF ∧
      (0x8000#16).getLsbD (0xF#4).toNat = true ∧ (∀ m : RegIx, m.toNat < (0xF#4).toNat → (0x8000#16).getLsbD m.toNat = false) ∧
      (0x8001#16).getLsbD (0x0#4).toNat = true ∧ ∀ m : RegIx, m.toNat < (0x0#4).toNat → (0x8001#16).getLsbD m.toNat = false := 
  ⟨busy fun s => { s with mode := .awaitingKey VF, script := [.step 0x8000#16 0x00#8] }, by decide⟩

/-- A step call on a drawing instruction. -/
theorem witness_StepLatchesKeysAndReportsDirty :
    ∃ (s t : State) (k : Keys) (r : Byte) (rest : List HostCall), s.script = .step k r :: rest ∧ s.fault = none ∧
      step s = .next t ∧ s.mode = .running ∧ ∃ op, s.fetch = some op ∧ decode op = .drw 0x0#4 0x1#4 0x1#4 := 
  ⟨start 0xD011#16 id, _, 0x0000#16, 0x00#8, [], by decide, by decide, rfl, by decide, 0xD011#16, by decide, by decide⟩

/-- A tick to come, one timer at its greatest value and one at zero. -/
theorem witness_TickCountsBothTimersDown :
    ∃ (s : State) (rest : List HostCall), s.script = .tick :: rest ∧ s.DT.toNat = 255 ∧ s.ST.toNat = 0 := 
  ⟨busy fun s => { s with DT := 0xFF#8, script := [.tick, .tick] }, [.tick], by decide⟩

/-- A load to come of one byte more than fits. -/
theorem witness_LoadCopiesFrom0x200 :
    ∃ (s : State) (bs : List Byte) (rest : List HostCall), s.MemOk ∧ s.script = .load bs :: rest ∧ bs.length = 3585 := 
  ⟨busy fun s => { s with script := [.load (List.replicate 3585 0xAA#8)] }, List.replicate 3585 0xAA#8, [],
    busy_memOk _ fun _ => rfl, rfl, List.length_replicate⟩

/-- A jump to itself. -/
theorem witness_IdleLoopStepChangesNothing :
    ∃ (s : State) (k : Keys) (r : Byte) (rest : List HostCall), s.script = .step k r :: rest ∧ s.fault = none ∧ s.isIdleLoop := 
  ⟨start 0x1200#16 id, 0x0000#16, 0x00#8, [], by decide, by decide, by decide, 0x1200#16, 0x200#12, by decide, by decide, by decide⟩

/-- Each mode under a step call, a latched fault, a tick and a load. -/
theorem witness_ModeFollowsWaitAndResume :
    ∃ s u v : State, s.script = [.step 0x0001#16 0x00#8] ∧ s.fault = none ∧ s.mode = .awaitingKey VF ∧
      u.script = [.step 0x0000#16 0x00#8] ∧ u.fault = none ∧ u.mode = .running ∧ u.fetch.map decode = some (.ldVK 0x3#4) ∧
      v.fault ≠ none ∧ v.script = [.tick, .load []] := 
  ⟨busy fun s => { s with mode := .awaitingKey VF, script := [.step 0x0001#16 0x00#8] }, start 0xF30A#16 id,
    busy fun s => { s with fault := some (.stackUnderflow 0x0200#16), script := [.tick, .load []] }, by decide⟩

/-- One entry, sixteen entries, none; and the one word. -/
theorem witness_RetPopsTheReturnAddress :
    ∃ s u v : State, s.sp.val = 1 ∧ u.sp.val = 16 ∧ v.sp.val = 0 ∧ decode 0x00EE#16 = .ret := 
  ⟨busy fun s => { s with sp := 1 }, busy fun s => { s with sp := 16 }, busy id, by decide⟩

/-- The first and the last word of the row. -/
theorem witness_JpGoesToTheAddress :
    (0x1000#16).toNat / 4096 = 0x1 ∧ (0x1FFF#16).toNat / 4096 = 0x1 := by decide

/-- Fifteen entries, sixteen entries. -/
theorem witness_CallPushesTheNextAddress :
    ∃ s u : State, s.sp.val = 15 ∧ s.sp.val < 16 ∧ u.sp.val = 16 := 
  ⟨busy fun s => { s with sp := 15 }, busy fun s => { s with sp := 16 }, by decide⟩

/-- A call at the last free entry, and the state it left. -/
theorem witness_RetComesBackAfterCall :
    ∃ (nnn : Addr) (s t u : State), s.sp.val = 15 ∧ exec (.call nnn) s = .next t ∧ u.stack = t.stack ∧ u.sp = t.sp := 
  ⟨0x300#12, busy fun s => { s with sp := 15 }, _, _, by decide, rfl, rfl, rfl⟩

/-- The last key number and the first that is none. -/
theorem witness_KeySkipsFollowTheKey :
    ∃ s u : State, (s.reg 0x0#4).toNat = 0xF ∧ (u.reg 0x0#4).toNat = 0x10 := 
  ⟨busy (regs [(0x0#4, 0x0F#8)]), busy (regs [(0x0#4, 0x10#8)]), by decide⟩

/-- Two words of the row, and both clauses of the writeback. -/
theorem witness_AddSetsCarry :
    (0x8014#16).toNat / 4096 = 0x8 ∧ (0x8014#16).toNat % 16 = 0x4 ∧ (0x8FF4#16).toNat / 4096 = 0x8 ∧
      (0x8FF4#16).toNat % 16 = 0x4 ∧ (0x0#4 : RegIx) ≠ VF ∧ (0xF#4 : RegIx) = VF := by decide

/-- Two words of the row, and both clauses of the writeback. -/
theorem witness_SubFlagsAStrictlyGreaterMinuend :
    (0x8015#16).toNat / 4096 = 0x8 ∧ (0x8015#16).toNat % 16 = 0x5 ∧ (0x8FF5#16).toNat / 4096 = 0x8 ∧
      (0x8FF5#16).toNat % 16 = 0x5 ∧ (0x0#4 : RegIx) ≠ VF ∧ (0xF#4 : RegIx) = VF := by decide

/-- Two words of the row, and both clauses of the writeback. -/
theorem witness_SubnIsTheMirror :
    (0x8017#16).toNat / 4096 = 0x8 ∧ (0x8017#16).toNat % 16 = 0x7 ∧ (0x8FF7#16).toNat / 4096 = 0x8 ∧
      (0x8FF7#16).toNat % 16 = 0x7 ∧ (0x0#4 : RegIx) ≠ VF ∧ (0xF#4 : RegIx) = VF := by decide

/-- Either source. -/
theorem witness_ShiftsFlagTheBitShiftedOut :
    ∃ s u : State, s.cfg.shiftSource = .vx ∧ s.reg 0x2#4 = 0x81#8 ∧ u.cfg.shiftSource = .vy ∧ u.reg 0x3#4 = 0x7F#8 := 
  ⟨busy (regs [(0x2#4, 0x81#8)]), busy fun s => { regs [(0x3#4, 0x7F#8)] s with cfg := { shiftSource := .vy } }, by decide⟩

/-- A word of the row; and an instruction that carries `I` above 0xFFF. -/
theorem witness_LdISetsTheIndex :
    (0xAFFF#16).toNat / 4096 = 0xA ∧ ∃ (i : Instr) (s t : State), exec i s = .next t ∧ s.I.toNat = 0xFFF ∧ 0xFFF < t.I.toNat := 
  ⟨by decide, .addI 0x0#4, busy fun s => { regs [(0x0#4, 0x01#8)] s with I := 0x0FFF#16 }, _, rfl, by decide, by decide⟩

/-- The last address a store of three bytes may begin at. -/
theorem witness_BcdStoresTheDigits :
    ∃ s : State, s.MemOk ∧ s.I.toNat + 2 = 0xFFF := 
  ⟨busy fun s => { s with I := 0x0FFD#16 }, busy_memOk _ fun _ => rfl, by decide⟩

/-- The last address a store of all registers may begin at, and of one. -/
theorem witness_StoreRegistersStoresTheBlock :
    ∃ s u : State, s.MemOk ∧ s.I.toNat + (0xF#4).toNat = 0xFFF ∧ u.MemOk ∧ u.I.toNat + (0x0#4).toNat = 0xFFF := 
  ⟨busy fun s => { s with I := 0x0FF0#16 }, busy fun s => { s with I := 0x0FFF#16 }, busy_memOk _ fun _ => rfl, by decide,
    busy_memOk _ fun _ => rfl, by decide⟩

/-- The last address a load of all registers may begin at, and of one. -/
theorem witness_LoadRegistersLoadsTheBlock :
    ∃ s u : State, s.I.toNat + (0xF#4).toNat = 0xFFF ∧ u.I.toNat + (0x0#4).toNat = 0xFFF := 
  ⟨busy fun s => { s with I := 0x0FF0#16 }, busy fun s => { s with I := 0x0FFF#16 }, by decide⟩

/-- A store of all registers at the end of memory, and the state it left. -/
theorem witness_StoredRegistersLoadBack :
    ∃ (x : RegIx) (s t u : State), s.MemOk ∧ s.I.toNat + x.toNat = 0xFFF ∧ exec (.ldMemV x) s = .next t ∧ u.mem = t.mem ∧ u.I = s.I := 
  ⟨0xF#4, busy fun s => { s with I := 0x0FF0#16 }, _, { State.reset with I := 0x0FF0#16, mem := _ }, busy_memOk _ fun _ => rfl,
    by decide, rfl, rfl, rfl⟩

/-- The first address each access may not begin at, one far above, and the info of each. -/
theorem witness_BlockOutsideMemoryFaults :
    ∃ s u : State, s.I.toNat = 0xFFE ∧ 0xFFF < s.I.toNat + 2 ∧ 0xFFF < s.I.toNat + (0x2#4).toNat ∧ 0 < (0x3#4).toNat ∧
      0xFFF < s.I.toNat + (0x3#4).toNat - 1 ∧ (0x1000#16).toNat = max s.I.toNat 0x1000 ∧
      u.I.toNat = 0xFFFF ∧ (0xFFFF#16).toNat = max u.I.toNat 0x1000 := 
  ⟨busy fun s => { s with I := 0x0FFE#16 }, busy fun s => { s with I := 0xFFFF#16 }, by decide⟩

/-- No row from an address outside memory, and fifteen rows at the end of it (vectors O-9, O-10). -/
theorem witness_DrawXorsTheSprite :
    ∃ s u : State, s.I.toNat = 0x5000 ∧ (0x0#4).toNat = 0 ∧ u.I.toNat + (0xF#4).toNat - 1 = 0xFFF := 
  ⟨busy fun s => { s with I := 0x5000#16 }, busy fun s => { s with I := 0x0FF1#16 }, by decide⟩

/-- A sprite drawn, and the state it left with the old registers. -/
theorem witness_DrawingTwiceRestoresTheScreen :
    ∃ (x y n : BitVec 4) (s t u v : State), (n.toNat = 0 ∨ s.I.toNat + n.toNat - 1 ≤ 0xFFF) ∧ exec (.drw x y n) s = .next t ∧
      u.fb = t.fb ∧ u.mem = s.mem ∧ u.I = s.I ∧ u.V = s.V ∧ exec (.drw x y n) u = .next v := 
  ⟨0x0#4, 0x1#4, 0x2#4, busy fun s => { s with I := 0x0FFE#16 }, _,
    { busy (fun s => { s with I := 0x0FFE#16 }) with fb := _ }, _, by decide, rfl, rfl, rfl, rfl, rfl, rfl⟩

/-- An instruction that is neither. -/
theorem witness_OnlyCallAndRetUseTheStack :
    ∃ (i : Instr) (s t : State), (∀ nnn, i ≠ .call nnn) ∧ i ≠ .ret ∧ exec i s = .next t := 
  ⟨.jp 0x234#12, busy id, _, nofun, nofun, rfl⟩

/-- A screen cleared, and the dirty flag set. -/
theorem witness_OnlyClearAndDrawTouchTheScreen :
    ∃ (i : Instr) (s t : State), exec i s = .next t ∧ t.fb ≠ s.fb ∧ s.dirty = false ∧ t.dirty = true := 
  ⟨.cls, busy fun s => { s with fb := s.fb.toggle 63 31 }, _, rfl, by decide, by decide, by decide⟩

/-- The last byte of memory changed. -/
theorem witness_MemoryChangesOnlyWhereStored :
    ∃ (i : Instr) (s t : State), s.MemOk ∧ exec i s = .next t ∧ t.readByte 0xFFF ≠ s.readByte 0xFFF := 
  ⟨.ldMemV 0x0#4, busy fun s => { s with I := 0x0FFF#16 }, _, busy_memOk _ fun _ => rfl, rfl, by decide⟩

/-- The flag register changed by a draw. -/
theorem witness_RegistersChangeOnlyWhereWritten :
    ∃ (i : Instr) (s t : State), exec i s = .next t ∧ t.reg VF ≠ s.reg VF := 
  ⟨.drw 0x0#4 0x0#4 0x0#4, busy (regs [(0xF#4, 0x33#8)]), _, rfl, by decide⟩

/-- An instruction that is not `Cxkk`. -/
theorem witness_RandomInputIsReadByRndAlone :
    ∃ (i : Instr) (s t : State), (∀ x kk, i ≠ .rnd x kk) ∧ exec i s = .next t := ⟨.ldImm 0x0#4 0x01#8, busy id, _, nofun, rfl⟩

/-- An instruction that is neither key skip. -/
theorem witness_KeysAreReadByTheKeySkipsAlone :
    ∃ (i : Instr) (s t : State), (∀ x, i ≠ .skp x) ∧ (∀ x, i ≠ .sknp x) ∧ exec i s = .next t := ⟨.ldVK 0x0#4, busy id, _, nofun, nofun, rfl⟩

/-- Each timer written, and an instruction that uses neither. -/
theorem witness_TimersServeTheirInstructionsAlone :
    ∃ (i j k : Instr) (s t u v : State), exec i s = .next t ∧ t.DT ≠ s.DT ∧ exec j s = .next u ∧ u.ST ≠ s.ST ∧ exec k s = .next v ∧
      (∀ x, k ≠ .ldVDt x) ∧ (∀ x, k ≠ .ldDtV x) ∧ ∀ x, k ≠ .ldStV x := 
  ⟨.ldDtV 0x1#4, .ldStV 0x1#4, .jp 0x234#12, busy (regs [(0x1#4, 0xFF#8)]), _, _, _, rfl, by decide, rfl, by decide, rfl,
    nofun, nofun, nofun⟩

/-- Each cause an instruction can raise. -/
theorem witness_FaultsHaveTheirCauses :
    ∃ s t u v w p q : State, s.fault = none ∧ exec (.call 0x300#12) s = .next t ∧ t.fault = some (.stackOverflow s.pc) ∧
      u.fault = none ∧ exec .ret u = .next v ∧ v.fault = some (.stackUnderflow u.pc) ∧
      exec (.ldB 0x0#4) s = .next w ∧ w.fault = some (.memOutOfRange 0x1000#16) ∧
      exec (.skp 0x0#4) s = .next p ∧ p.fault = some (.keyIndexOutOfRange 0x10#8) ∧
      exec (.drw 0x0#4 0x0#4 0x3#4) s = .next q ∧ q.fault = some (.memOutOfRange 0x1000#16) := 
  ⟨busy fun s => { regs [(0x0#4, 0x10#8)] s with sp := 16, I := 0x0FFE#16 }, _, busy id, _, _, _, _,
    by decide, rfl, by decide, by decide, rfl, by decide, rfl, by decide, rfl, by decide, rfl, by decide⟩

/-- A state with bytes in memory, about to run. -/
theorem witness_StepKeepsMemoryCanonical :
    ∃ s t : State, s.MemOk ∧ step s = .next t := ⟨busy id, _, busy_memOk _ fun _ => rfl, rfl⟩

/-- A state with an explained fault latched, about to run. -/
theorem witness_StepKeepsFaultsExplained :
    ∃ s t : State, s.FaultOk ∧ s.isFaulted ∧ step s = .next t := 
  ⟨busy fun s => { s with fault := some (.stackUnderflow 0x0200#16) }, _,
    fun f hf => by cases hf; exact ⟨rfl, rfl, rfl, rfl⟩, by unfold State.isFaulted; decide, rfl⟩

/-- The greatest pc, and waiting at the last address inside memory, the stack full. -/
theorem witness_StepKeepsThePcBounded :
    ∃ s t u v : State, s.PcOk ∧ s.pc.toNat = 0x10FE ∧ step s = .next t ∧ u.PcOk ∧ u.isWaiting ∧ u.pc.toNat = 0xFFE ∧ u.sp.val = 16 ∧
      step u = .next v := 
  ⟨busy (atPc 0x10FE#16), _, busy fun s => { s with pc := 0x0FFE#16, mode := .awaitingKey 0x0#4, sp := 16 }, _,
    ⟨by decide, fun h => absurd rfl h, by decide⟩, by decide, rfl, ⟨by decide, fun _ => by decide, by decide⟩, ⟨0x0#4, rfl⟩,
    by decide, by decide, rfl⟩

/-- A well-formed sentinel, and every other instruction. -/
theorem witness_DecodeOfEncodeIsTheInstruction :
    (Instr.unknown 0xFFFF#16).wellFormed = true ∧ ∀ x y n, (Instr.drw x y n).wellFormed = true := ⟨by decide, fun _ _ _ => rfl⟩

end Sys2Proof.Tests
end

section
/-!
The mode, and what the instructions read and write of the stack, the keypad latch, the random byte and the timers
(10_state.md).
-/

namespace Sys2Proof.Machine

/-! ### The mode (10_state.md R27) -/

/-- The mode an instruction leaves: `Fx0A` alone writes it. -/
def modeAfter (i : Instr) (m : Mode) : Mode :=
  match i with
  | .ldVK x => .awaitingKey x
  | _ => m

/-- Every instruction answers a next state, in which the mode is `modeAfter` and the parameters are kept. -/
theorem exec_completes (i : Instr) (s : State) :
    ∃ t, exec i s = .next t ∧ t.mode = modeAfter i s.mode ∧ t.cfg = s.cfg := by
  cases i with
  | ret =>
    rcases exec_ret_cases s with ⟨-, h⟩ | ⟨_, u, -, rfl, h⟩ <;> exact ⟨_, h, rfl, rfl⟩
  | call nnn =>
    rcases exec_call_cases nnn s with ⟨-, h⟩ | ⟨_, u, rfl, h⟩ <;> exact ⟨_, h, rfl, rfl⟩
  | skp x =>
    rcases exec_skp_cases x s with ⟨-, h⟩ | ⟨-, h⟩ <;> exact ⟨_, h, by simp [modeAfter], by simp⟩
  | sknp x =>
    rcases exec_sknp_cases x s with ⟨-, h⟩ | ⟨-, h⟩ <;> exact ⟨_, h, by simp [modeAfter], by simp⟩
  | ldB x =>
    rcases exec_ldB_cases x s with ⟨_, -, -, h⟩ | ⟨-, h⟩ <;> exact ⟨_, h, rfl, rfl⟩
  | ldMemV x =>
    rcases exec_ldMemV_cases x s with ⟨_, -, -, h⟩ | ⟨-, h⟩ <;> exact ⟨_, h, by simp [modeAfter], by simp⟩
  | ldVMem x =>
    rcases exec_ldVMem_cases x s with ⟨_, -, -, h⟩ | ⟨-, h⟩ <;> exact ⟨_, h, by simp [modeAfter], by simp⟩
  | drw x y n =>
    rcases exec_drw_cases x y n s with ⟨_, -, -, -, h⟩ | ⟨-, _, -, h⟩ <;> exact ⟨_, h, rfl, rfl⟩
  | _ => exact ⟨_, rfl, by simp [modeAfter], by simp⟩

/-- A step in mode Running: the instruction fetched decides the mode, and a fetch outside memory leaves it. -/
theorem runInstr_completes (s : State) :
    ∃ t, s.runInstr = .next t ∧ t.mode = (s.fetch.map decode).elim s.mode (modeAfter · s.mode) := by
  rcases runInstr_cases s with ⟨hpc, hrun⟩ | ⟨-, op, hop, hrun⟩
  · exact ⟨_, hrun, by simp [(fetch_eq_none s).mpr hpc]⟩
  · obtain ⟨t, ht, hmode, -⟩ := exec_completes (decode op) s
    exact ⟨t, hrun.trans ht, by simp [hop, hmode]⟩

theorem leastKey_eq_none_iff_eq_zero (keys : Keys) : leastKey keys = none ↔ keys = 0x0000#16 := by
  rw [leastKey_eq_none]
  constructor
  · intro h
    ext j hj
    simpa [BitVec.getLsbD_eq_getElem hj] using h (BitVec.ofNatLT j hj)
  · rintro rfl k
    simp

/-- The resume test of wait mode (40_sequencing.md R66) writes the mode exactly where a key is pressed. -/
theorem State.resume_mode (s : State) (x : RegIx) :
    (s.resume x).mode = if s.keys = 0x0000#16 then s.mode else .running := by
  cases h : leastKey s.keys with
  | none => rw [resume_none x h, if_pos ((leastKey_eq_none_iff_eq_zero _).mp h)]
  | some k => rw [resume_some x h, if_neg (mt (leastKey_eq_none_iff_eq_zero _).mpr (by simp [h]))]

/-- Settles O15: by the mode the step call begins in, the resume test or the instruction fetched. -/
theorem modeFollowsWaitAndResume : Obligations.ModeFollowsWaitAndResume := by
  refine ⟨fun s k r rest hs hf => ?_, fun s c rest hs hc => ?_⟩
  · cases hm : s.mode with
    | awaitingKey x =>
      exact ⟨_, step_waiting hs hf hm, by simp [State.resume_mode, hm]⟩
    | running =>
      obtain ⟨t, ht, hmode⟩ := runInstr_completes ((s.setScript rest).beginStep k r)
      refine ⟨t.report, (step_running hs hf hm).trans (by rw [ht, reportResult_next]), ?_⟩
      have hfetch : ((s.setScript rest).beginStep k r).fetch = s.fetch := rfl
      rw [State.report_mode, hmode, hfetch, State.beginStep_mode, State.setScript_mode, hm]
      cases s.fetch.map decode with
      | none => rfl
      | some i => cases i <;> rfl
  · cases c with
    | tick => exact ⟨_, step_scripted hs, rfl⟩
    | load bytes => exact ⟨_, step_scripted hs, rfl⟩
    | step k r =>
      obtain ⟨f, hf⟩ := Option.ne_none_iff_exists'.mp (hc.resolve_right (by simp))
      exact ⟨_, step_faulted hs hf, rfl⟩

/-! ### The periphery: what is read and written by few instructions -/

/-- The fields that serve few instructions each: the stack (10_state.md R21), the keypad latch (R26), the random byte of the
step (40_sequencing.md R74) and the timers (10_state.md R23). -/
structure Periphery where
  stack : Vector Word 16
  keys : Keys
  rndIn : Byte
  DT : Byte
  ST : Byte

/-- The periphery of a state. -/
def State.periphery (s : State) : Periphery := ⟨s.stack, s.keys, s.rndIn, s.DT, s.ST⟩

/-- The state with another periphery. -/
def State.withPeriphery (s : State) (p : Periphery) : State :=
  { s with stack := p.stack, keys := p.keys, rndIn := p.rndIn, DT := p.DT, ST := p.ST }

/-- The two peripheries agree on what the instruction reads of them. -/
def Periphery.AgreeFor (i : Instr) (p q : Periphery) : Prop :=
  match i with
  | .call _ => p.stack = q.stack
  | .ret => p.stack = q.stack
  | .skp _ => p.keys = q.keys
  | .sknp _ => p.keys = q.keys
  | .rnd _ _ => p.rndIn = q.rndIn
  | .ldVDt _ => p.DT = q.DT
  | _ => True

/-- The periphery with what the instruction writes of it taken from the state `t` it leaves. -/
def Periphery.writtenBy (i : Instr) (t : State) (p : Periphery) : Periphery :=
  match i with
  | .call _ => { p with stack := t.stack }
  | .ldDtV _ => { p with DT := t.DT }
  | .ldStV _ => { p with ST := t.ST }
  | _ => p

theorem Periphery.agreeFor_refl (i : Instr) (p : Periphery) : AgreeFor i p p := by
  cases i with
  | call | ret | skp | sknp | rnd | ldVDt => rfl
  | _ => trivial

@[simp] theorem State.applyDirective_withPeriphery (s : State) (p : Periphery) (d : Directive) :
    (s.withPeriphery p).applyDirective d = (s.applyDirective d).withPeriphery p := by
  cases d <;> rfl

@[simp] theorem State.writeback_withPeriphery (s : State) (p : Periphery) (x : RegIx) (rf : Byte × Bool) :
    (s.withPeriphery p).writeback x rf = (s.writeback x rf).withPeriphery p := by
  rw [State.writeback_eq, State.writeback_eq]; rfl

@[simp] theorem State.advanceIndex_withPeriphery (s : State) (p : Periphery) (x : RegIx) :
    (s.withPeriphery p).advanceIndex x = (s.advanceIndex x).withPeriphery p := by
  rw [State.advanceIndex_eq, State.advanceIndex_eq]; rfl

@[simp] theorem State.withPeriphery_I (s : State) (p : Periphery) : (s.withPeriphery p).I = s.I := rfl
@[simp] theorem State.withPeriphery_pc (s : State) (p : Periphery) : (s.withPeriphery p).pc = s.pc := rfl

@[simp] theorem State.regBlock_withPeriphery (s : State) (p : Periphery) (x : RegIx) :
    (s.withPeriphery p).regBlock x = s.regBlock x := rfl

@[simp] theorem State.storeAtIndex_withPeriphery (s : State) (p : Periphery) (bs : List Byte) :
    (s.withPeriphery p).storeAtIndex bs = (s.storeAtIndex bs).withPeriphery p := rfl

@[simp] theorem State.loadRegBlock_withPeriphery (s : State) (p : Periphery) (x : RegIx) (a : Nat) :
    (s.withPeriphery p).loadRegBlock x a = (s.loadRegBlock x a).withPeriphery p := rfl

@[simp] theorem State.keyOperand_withPeriphery (s : State) (p : Periphery) (x : RegIx) :
    (s.withPeriphery p).keyOperand x = s.keyOperand x := rfl

theorem State.keyDown_withPeriphery {s : State} {p : Periphery} (h : s.keys = p.keys) (k : RegIx) :
    (s.withPeriphery p).keyDown k = s.keyDown k := by
  unfold State.keyDown; rw [h]; rfl

/-- A push on the same stack, whatever the rest of the periphery. -/
theorem State.push_withPeriphery (s : State) {p : Periphery} (a : Word) (h : s.stack = p.stack) :
    (s.withPeriphery p).push a = (s.push a).map fun u => u.withPeriphery { p with stack := u.stack } := by
  obtain ⟨stack, keys, rndIn, DT, ST⟩ := p
  obtain rfl : s.stack = stack := h
  by_cases hsp : s.sp.val < 16
  · rw [State.push_of_lt a hsp, State.push_of_lt (s := s.withPeriphery _) a hsp]; rfl
  · have hfull : s.sp.val = 16 := by have := s.sp.isLt; omega
    rw [(State.push_eq_none s a).mpr hfull, (State.push_eq_none (s.withPeriphery _) a).mpr hfull]; rfl

/-- A pop from the same stack, whatever the rest of the periphery. -/
theorem State.pop_withPeriphery (s : State) {p : Periphery} (h : s.stack = p.stack) :
    (s.withPeriphery p).pop = s.pop.map fun au => (au.1, au.2.withPeriphery p) := by
  obtain ⟨stack, keys, rndIn, DT, ST⟩ := p
  obtain rfl : s.stack = stack := h
  by_cases hsp : 0 < s.sp.val
  · rw [State.pop_of_pos hsp, State.pop_of_pos (s := s.withPeriphery _) hsp]; rfl
  · have hempty : s.sp.val = 0 := by omega
    rw [(State.pop_eq_none s).mpr hempty, (State.pop_eq_none (s.withPeriphery _)).mpr hempty]; rfl

/-- What the instructions read and write of the periphery, said once for all of them: with another periphery that agrees on
what the instruction reads, the next state is the same but for the periphery, and what the instruction writes of it is the
same too. -/
theorem exec_withPeriphery {i : Instr} {s t : State} {p : Periphery} (h : exec i s = .next t)
    (hp : Periphery.AgreeFor i s.periphery p) :
    exec i (s.withPeriphery p) = .next (t.withPeriphery (p.writtenBy i t)) := by
  cases i with
  | call nnn =>
    have hpush := State.push_withPeriphery s (s.pc + 2#16) hp
    cases hu : s.push (s.pc + 2#16) <;> rw [hu] at hpush <;>
      simp only [exec, execCall, State.withPeriphery_pc, hu, hpush, Option.map] at h ⊢ <;> cases h
    · have hstack : p.stack = (s.latchFault (.stackOverflow s.pc)).stack := hp.symm
      rw [Periphery.writtenBy, ← hstack]; rfl
    · rfl
  | ret =>
    have hpop := State.pop_withPeriphery s hp
    cases hu : s.pop <;> rw [hu] at hpop <;>
      simp only [exec, execRet, hu, hpop, Option.map] at h ⊢ <;> cases h <;> rfl
  | skp x | sknp x =>
    have hdown := State.keyDown_withPeriphery hp
    cases hk : s.keyOperand x <;>
      simp only [exec, execSkp, execSknp, State.keyOperand_withPeriphery, hk, hdown] at h ⊢ <;> cases h
    · rfl
    · exact congrArg _ (State.applyDirective_withPeriphery s p _)
  | seImm | sneImm | seReg | sneReg =>
    cases h
    exact congrArg _ (State.applyDirective_withPeriphery s p _)
  | addReg x | sub x | shr x | subn x | shl x =>
    cases h
    exact congrArg (State.finish .next) (State.writeback_withPeriphery s p x _)
  | ldMemV x | ldVMem x =>
    cases ho : outOfRange s.I (blockCount x) <;>
      simp only [exec, execLdMemV, execLdVMem, State.withPeriphery_I, State.regBlock_withPeriphery,
        State.storeAtIndex_withPeriphery, State.loadRegBlock_withPeriphery, State.advanceIndex_withPeriphery, ho] at h ⊢ <;>
      cases h <;> rfl
  | ldB x =>
    cases ho : outOfRange s.I 3 <;>
      simp only [exec, execLdB, State.withPeriphery_I, ho] at h ⊢ <;> cases h <;> rfl
  | drw x y n =>
    cases ho : outOfRange s.I n.toNat <;>
      simp only [exec, execDrw, State.withPeriphery_I, ho] at h ⊢ <;> cases h <;> rfl
  | rnd x kk =>
    cases h
    have hrnd : s.rndIn = (s.withPeriphery p).rndIn := hp
    simp only [exec, execRnd, hrnd]; rfl
  | ldVDt x =>
    cases h
    have hDT : s.DT = (s.withPeriphery p).DT := hp
    simp only [exec, execLdVDt, hDT]; rfl
  | _ => cases h; rfl

/-- What an instruction leaves of the periphery it was given. -/
theorem periphery_of_exec {i : Instr} {s t : State} (h : exec i s = .next t) :
    t.periphery = s.periphery.writtenBy i t :=
  congrArg State.periphery (Host.Outcome.next.inj
    (h.symm.trans (exec_withPeriphery h (Periphery.agreeFor_refl i s.periphery))))

/-! ### The stack in the periphery (10_state.md R21) -/

theorem Periphery.agreeFor_withStack {i : Instr} (hcall : ∀ nnn, i ≠ .call nnn) (hret : i ≠ .ret) (p : Periphery)
    (stack : Vector Word 16) : AgreeFor i p { p with stack := stack } := by
  cases i with
  | call nnn => exact absurd rfl (hcall nnn)
  | ret => exact absurd rfl hret
  | skp | sknp | rnd | ldVDt => rfl
  | _ => trivial

theorem Periphery.writtenBy_withStack {i : Instr} (hcall : ∀ nnn, i ≠ .call nnn) (t : State) (p : Periphery)
    (stack : Vector Word 16) :
    writtenBy i t { p with stack := stack } = { writtenBy i t p with stack := stack } := by
  cases i with
  | call nnn => exact absurd rfl (hcall nnn)
  | _ => rfl

theorem Periphery.writtenBy_stack {i : Instr} (hcall : ∀ nnn, i ≠ .call nnn) (t : State) (p : Periphery) :
    (writtenBy i t p).stack = p.stack := by
  cases i with
  | call nnn => exact absurd rfl (hcall nnn)
  | _ => rfl

/-- Settles O42: the instructions left agree on a periphery with another stack, and write no stack. -/
theorem onlyCallAndRetUseTheStack : Obligations.OnlyCallAndRetUseTheStack := by
  intro i s t stack hcall hret h
  have hkept : t.periphery = s.periphery.writtenBy i t := periphery_of_exec h
  constructor
  · exact (congrArg Periphery.stack hkept).trans (Periphery.writtenBy_stack hcall t _)
  · have hother := exec_withPeriphery h (Periphery.agreeFor_withStack hcall hret s.periphery stack)
    rw [Periphery.writtenBy_withStack hcall, ← hkept] at hother
    exact hother

end Sys2Proof.Machine
end

section
/-!
The opcode a fetch gives, as the word of the two bytes at the pc (20_memory.md).
-/

namespace Sys2Proof.Machine

/-- Settles O5: the opcode fetched is `wordOfBytes` of the bytes at the pc and at the pc + 1, whose value and halves are known. -/
theorem fetchIsBigEndian : Obligations.FetchIsBigEndian := by
  intro s hpc
  have hvalue := toNat_wordOfBytes (s.readByte s.pc.toNat) (s.readByte (s.pc.toNat + 1))
  rw [Nat.mul_comm] at hvalue
  exact ⟨wordOfBytes (s.readByte s.pc.toNat) (s.readByte (s.pc.toNat + 1)), fetch_eq_some hpc, hvalue,
    highByte_wordOfBytes _ _, lowByte_wordOfBytes _ _⟩

end Sys2Proof.Machine
end

section
/-!
The jump (41_control.md R80): its row of the opcode map, and the frame of a pc directive.
-/

namespace Sys2Proof

theorem toNat_fieldMajor (op : Word) : (fieldMajor op).toNat = op.toNat / 4096 := by
  have hlt : op.toNat < 65536 := op.isLt
  rw [fieldMajor, BitVec.extractLsb'_toNat, Nat.shiftRight_eq_div_pow]
  omega

theorem fieldMajor_eq_iff (op : Word) (m : BitVec 4) : fieldMajor op = m ↔ op.toNat / 4096 = m.toNat := by
  rw [← BitVec.toNat_inj, toNat_fieldMajor]

/-- Major nibble 1 is the row of the jump, whatever the low 12 bits (30_encoding.md R54, R55). -/
theorem decode_of_fieldMajor_one {op : Word} (h : fieldMajor op = 0x1#4) : decode op = .jp (fieldNNN op) := by
  simp only [decode, h]

end Sys2Proof

namespace Sys2Proof.Machine

@[simp] theorem toNat_zextAddr (nnn : Addr) : (zextAddr nnn).toNat = nnn.toNat :=
  BitVec.toNat_setWidth_of_le (by decide)

/-- The frame of a pc directive (40_sequencing.md R70): the pc alone. -/
theorem sameBut_applyDirective (d : Directive) (s : State) : SameBut [.pc] s (s.applyDirective d) := by
  intro p hp
  cases p with
  | pc => exact absurd (List.mem_singleton_self Part.pc) hp
  | _ => simp [Part.same]

theorem exec_jp (nnn : Addr) (s : State) : exec (.jp nnn) s = .next (s.applyDirective (.jump (zextAddr nnn))) := by
  rw [exec, execJp, State.finish_eq]

/-- Settles O18: the row of major nibble 1, and a jump directive to the zero-extended address, which writes the pc alone. -/
theorem jpGoesToTheAddress : Obligations.JpGoesToTheAddress := by
  constructor
  · intro op hop
    exact decode_of_fieldMajor_one ((fieldMajor_eq_iff op 0x1#4).mpr hop)
  · intro nnn s
    exact ⟨_, exec_jp nnn s, toNat_zextAddr nnn, sameBut_applyDirective _ s⟩

end Sys2Proof.Machine
end

section
/-!
The index register (44_memory_index.md R103): the row of `Annn`, its frame, and which instructions write `I`.
-/

namespace Sys2Proof

/-- Major nibble A is the row of `Annn`, whatever the low 12 bits (30_encoding.md R54, R55). -/
theorem decode_of_fieldMajor_ten {op : Word} (h : fieldMajor op = 0xA#4) : decode op = .ldI (fieldNNN op) := by
  simp only [decode, h]

end Sys2Proof

namespace Sys2Proof.Machine

theorem zextAddr_le (nnn : Addr) : (zextAddr nnn).toNat ≤ 0xFFF := by
  rw [toNat_zextAddr]
  exact Nat.le_of_lt_succ nnn.isLt

/-- Frames compose: what two changes leave each, they leave together. -/
theorem SameBut.trans {ps qs : List Part} {s t u : State} (hst : SameBut ps s t) (htu : SameBut qs t u) :
    SameBut (ps ++ qs) s u := by
  intro p hp
  obtain ⟨hps, hqs⟩ := not_or.mp (mt List.mem_append.mpr hp)
  have hfirst : p.same s t := hst p hps
  have hsecond : p.same t u := htu p hqs
  cases p <;> exact Eq.trans hsecond hfirst

/-- The frame of a write of the index: the index alone. -/
theorem sameBut_setIndex (s : State) (a : Word) : SameBut [.index] s (s.setIndex a) := by
  intro p hp
  cases p with
  | index => exact absurd (List.mem_singleton_self Part.index) hp
  | _ => rfl

theorem exec_ldI (nnn : Addr) (s : State) :
    exec (.ldI nnn) s = .next ((s.setIndex (zextAddr nnn)).applyDirective .next) := by
  rw [exec, execLdI, State.finish_eq]

/-- What an instruction can do to the index: leave it, load it with an address of 12 bits (`Annn`), or be one of the four that
compute it (10_state.md R20). -/
theorem exec_index_cases {i : Instr} {s t : State} (h : exec i s = .next t) :
    t.I = s.I ∨ (∃ nnn, i = .ldI nnn ∧ t.I = zextAddr nnn) ∨
      ∃ x, i = .addI x ∨ i = .ldF x ∨ i = .ldMemV x ∨ i = .ldVMem x := by
  cases i with
  | addI x | ldF x | ldMemV x | ldVMem x => exact .inr (.inr ⟨x, by simp⟩)
  | ldI nnn =>
    obtain rfl := Host.Outcome.next.inj ((exec_ldI nnn s).symm.trans h)
    exact .inr (.inl ⟨nnn, rfl, rfl⟩)
  | ret =>
    rcases exec_ret_cases s with ⟨-, hexec⟩ | ⟨_, u, -, rfl, hexec⟩ <;> cases hexec.symm.trans h <;> exact .inl rfl
  | call nnn =>
    rcases exec_call_cases nnn s with ⟨-, hexec⟩ | ⟨_, u, rfl, hexec⟩ <;> cases hexec.symm.trans h <;> exact .inl rfl
  | skp x =>
    rcases exec_skp_cases x s with ⟨-, hexec⟩ | ⟨-, hexec⟩ <;> cases hexec.symm.trans h <;> exact .inl (by simp)
  | sknp x =>
    rcases exec_sknp_cases x s with ⟨-, hexec⟩ | ⟨-, hexec⟩ <;> cases hexec.symm.trans h <;> exact .inl (by simp)
  | ldB x =>
    rcases exec_ldB_cases x s with ⟨_, -, -, hexec⟩ | ⟨-, hexec⟩ <;> cases hexec.symm.trans h <;> exact .inl rfl
  | drw x y n =>
    rcases exec_drw_cases x y n s with ⟨_, -, -, -, hexec⟩ | ⟨-, _, -, hexec⟩ <;> cases hexec.symm.trans h <;>
      exact .inl rfl
  | _ => cases h; exact .inl (by simp)

/-- Settles O30: the row of major nibble A, a write of the index and a pc directive, whose frames compose, and the instructions
that write the index, of which `Annn` stays within 12 bits. -/
theorem ldISetsTheIndex : Obligations.LdISetsTheIndex := by
  refine ⟨fun op hop => ?_, fun nnn s => ?_, fun i s t h hs ht => ?_⟩
  · exact decode_of_fieldMajor_ten ((fieldMajor_eq_iff op 0xA#4).mpr hop)
  · refine ⟨_, exec_ldI nnn s, ?_, rfl, (sameBut_setIndex s _).trans (sameBut_applyDirective .next _)⟩
    exact toNat_zextAddr nnn
  · rcases exec_index_cases h with hkept | ⟨nnn, -, hloaded⟩ | hcomputed
    · rw [hkept] at ht
      exact absurd hs (Nat.not_le_of_gt ht)
    · rw [hloaded] at ht
      exact absurd (zextAddr_le nnn) (Nat.not_le_of_gt ht)
    · exact hcomputed

end Sys2Proof.Machine
end

section
/-!
The decoder and the encoder (30_encoding.md): decoding undoes encoding, encoding undoes decoding, and the words of the gap.
-/

namespace Sys2Proof

/-! ### The words of the gap (30_encoding.md R56) -/

/-- The classes of undefined words, each by its major nibble. -/
theorem undefinedWord_iff (op : Word) : undefinedWord op = true ↔
    (fieldMajor op = 0x0#4 ∧ op ≠ 0x00E0#16 ∧ op ≠ 0x00EE#16) ∨
    (fieldMajor op = 0x5#4 ∧ fieldN op ≠ 0x0#4) ∨
    (fieldMajor op = 0x8#4 ∧ fieldN op ∈ [0x8#4, 0x9#4, 0xA#4, 0xB#4, 0xC#4, 0xD#4, 0xF#4]) ∨
    (fieldMajor op = 0x9#4 ∧ fieldN op ≠ 0x0#4) ∨
    (fieldMajor op = 0xE#4 ∧ fieldKK op ∉ [0x9E#8, 0xA1#8]) ∨
    (fieldMajor op = 0xF#4 ∧
      fieldKK op ∉ [0x07#8, 0x0A#8, 0x15#8, 0x18#8, 0x1E#8, 0x29#8, 0x33#8, 0x55#8, 0x65#8]) := by
  rw [undefinedWord_fields]
  rcases nibble_cases (fieldMajor op) with hm | hm | hm | hm | hm | hm | hm | hm | hm | hm | hm | hm | hm | hm | hm | hm <;>
    simp [hm]

/-- The words of the gap go to the sentinel (30_encoding.md R57). -/
theorem decode_of_undefinedWord {op : Word} (h : undefinedWord op = true) : decode op = .unknown op := by
  rcases (undefinedWord_iff op).mp h with ⟨hm, hE0, hEE⟩ | ⟨hm, hn⟩ | ⟨hm, hn⟩ | ⟨hm, hn⟩ | ⟨hm, hkk⟩ | ⟨hm, hkk⟩
  · simp [decode, hm, decodeMajor0, hE0, hEE]
  · simp [decode, hm, hn]
  · simp only [List.mem_cons, List.not_mem_nil, or_false] at hn
    rcases hn with hn | hn | hn | hn | hn | hn | hn <;>
      simp only [decode, hm, decodeMajor8, hn] <;> rfl
  · simp [decode, hm, hn]
  · simp_all [decode, decodeMajorE]
  · simp_all [decode, decodeMajorF]

/-! ### The round trips (30_encoding.md R55) -/

/-- Settles O54: each row's word has the row's fields, which select the row; the sentinel's word lies in the gap. -/
theorem decodeOfEncodeIsTheInstruction : Obligations.DecodeOfEncodeIsTheInstruction := by
  intro i hi
  cases i with
  | unknown op => exact decode_of_undefinedWord hi
  | cls | ret => rfl
  | _ => simp [encode, decode, decodeMajor8, decodeMajorE, decodeMajorF]

theorem packA_of_fieldMajor {op : Word} {m : BitVec 4} (h : fieldMajor op = m) : packA m (fieldNNN op) = op := by
  rw [← h, packA_fields]

theorem packXK_of_fieldMajor {op : Word} {m : BitVec 4} (h : fieldMajor op = m) :
    packXK m (fieldX op) (fieldKK op) = op := by
  rw [← h, packXK_fields]

theorem packXYN_of_fieldMajor {op : Word} {m : BitVec 4} (h : fieldMajor op = m) :
    packXYN m (fieldX op) (fieldY op) (fieldN op) = op := by
  rw [← h, packXYN_fields]

/-- The instruction stands for the word: it is well-formed and encodes to it. -/
def StandsFor (i : Instr) (op : Word) : Prop := i.wellFormed = true ∧ encode i = op

theorem standsFor_unknown {op : Word} (h : undefinedWord op = true) : StandsFor (.unknown op) op := ⟨h, rfl⟩

theorem decodeMajor8_standsFor {op : Word} (hm : fieldMajor op = 0x8#4) : StandsFor (decodeMajor8 op) op := by
  have hpack := packXYN_of_fieldMajor hm
  unfold decodeMajor8
  split
  case h_10 =>
    have hn := nibble_cases (fieldN op)
    exact standsFor_unknown (by simp_all [undefinedWord_iff])
  all_goals next hn => rw [hn] at hpack; exact ⟨rfl, hpack⟩

theorem decodeMajorE_standsFor {op : Word} (hm : fieldMajor op = 0xE#4) : StandsFor (decodeMajorE op) op := by
  have hpack := packXK_of_fieldMajor hm
  unfold decodeMajorE
  split
  case h_3 => exact standsFor_unknown (by simp_all [undefinedWord_iff])
  all_goals next hkk => rw [hkk] at hpack; exact ⟨rfl, hpack⟩

theorem decodeMajorF_standsFor {op : Word} (hm : fieldMajor op = 0xF#4) : StandsFor (decodeMajorF op) op := by
  have hpack := packXK_of_fieldMajor hm
  unfold decodeMajorF
  split
  case h_10 => exact standsFor_unknown (by simp_all [undefinedWord_iff])
  all_goals next hkk => rw [hkk] at hpack; exact ⟨rfl, hpack⟩

theorem decodeMajor0_standsFor {op : Word} (hm : fieldMajor op = 0x0#4) : StandsFor (decodeMajor0 op) op := by
  unfold decodeMajor0
  split_ifs with hE0 hEE
  · exact ⟨rfl, hE0.symm⟩
  · exact ⟨rfl, hEE.symm⟩
  · exact standsFor_unknown (by simp [undefinedWord_iff, hm, hE0, hEE])

/-- The rows of major nibbles 5 and 9, whose last nibble is 0 (30_encoding.md R54). -/
theorem ite_fieldN_standsFor {op : Word} {m : BitVec 4} {i : Instr} (hm : fieldMajor op = m) (hwf : i.wellFormed = true)
    (hi : encode i = packXYN m (fieldX op) (fieldY op) 0x0#4) (hgap : fieldN op ≠ 0x0#4 → undefinedWord op = true) :
    StandsFor (if fieldN op = 0x0#4 then i else .unknown op) op := by
  split
  next hn => exact ⟨hwf, hi.trans (hn ▸ packXYN_of_fieldMajor hm)⟩
  next hn => exact standsFor_unknown (hgap hn)

/-- Settles O55: by the major nibble, the row it selects, or the gap. -/
theorem encodeOfDecodeIsTheWord : Obligations.EncodeOfDecodeIsTheWord := by
  intro op
  unfold decode
  split
  case h_1 hm => exact decodeMajor0_standsFor hm
  case h_6 hm => exact ite_fieldN_standsFor hm rfl rfl fun hn => by simp [undefinedWord_iff, hm, hn]
  case h_9 hm => exact decodeMajor8_standsFor hm
  case h_10 hm => exact ite_fieldN_standsFor hm rfl rfl fun hn => by simp [undefinedWord_iff, hm, hn]
  case h_14 hm => exact ⟨rfl, packXYN_of_fieldMajor hm⟩
  case h_15 hm => exact decodeMajorE_standsFor hm
  case h_16 hm => exact decodeMajorF_standsFor hm
  case h_2 hm | h_3 hm | h_11 hm | h_12 hm => exact ⟨rfl, packA_of_fieldMajor hm⟩
  case h_4 hm | h_5 hm | h_7 hm | h_8 hm | h_13 hm => exact ⟨rfl, packXK_of_fieldMajor hm⟩
  case h_17 => exact absurd (nibble_cases (fieldMajor op)) (by simp_all)

/-- The sentinel stands for the words of the gap, each for itself. -/
theorem decode_eq_unknown_iff (op u : Word) : decode op = .unknown u ↔ u = op ∧ undefinedWord op = true := by
  constructor
  · intro h
    obtain ⟨hwf, henc⟩ := encodeOfDecodeIsTheWord op
    rw [h] at hwf henc
    obtain rfl : u = op := henc
    exact ⟨rfl, hwf⟩
  · rintro ⟨rfl, h⟩
    exact decode_of_undefinedWord h

/-! ### The fields as numbers -/

theorem toNat_fieldN (op : Word) : (fieldN op).toNat = op.toNat % 16 := by
  rw [fieldN, BitVec.extractLsb'_toNat, Nat.shiftRight_zero]

theorem toNat_fieldKK (op : Word) : (fieldKK op).toNat = op.toNat % 256 := by
  rw [fieldKK, BitVec.extractLsb'_toNat, Nat.shiftRight_zero]

theorem fieldN_eq_iff (op : Word) (n : BitVec 4) : fieldN op = n ↔ op.toNat % 16 = n.toNat := by
  rw [← BitVec.toNat_inj, toNat_fieldN]

/-- Settles O56: the sentinel stands for the gap, and its classes are read off as numbers field by field. -/
theorem undefinedWordsAreExactlyTheList : Obligations.UndefinedWordsAreExactlyTheList := by
  intro op u
  rw [decode_eq_unknown_iff, undefinedWord_iff]
  simp only [← BitVec.toNat_inj, toNat_fieldMajor, toNat_fieldN, toNat_fieldKK, List.mem_cons, List.not_mem_nil,
    or_false, ne_eq]
  rfl

/-- Settles O57: each word selects its row, and its fields are the row's operands. -/
theorem writtenOutWordsDecode : Obligations.WrittenOutWordsDecode :=
  ⟨rfl, rfl, rfl, rfl, rfl, rfl, rfl, rfl, rfl, rfl, rfl, rfl⟩

/-- Exactly one word is a return (41_control.md R79). -/
theorem decode_eq_ret_iff (op : Word) : decode op = .ret ↔ op.toNat = 0x00EE := by
  constructor
  · intro h
    have henc := (encodeOfDecodeIsTheWord op).2
    rw [h] at henc
    exact congrArg BitVec.toNat henc.symm
  · intro h
    obtain rfl : op = 0x00EE#16 := BitVec.eq_of_toNat_eq h
    rfl

/-- The rows of major nibble 8, each selected by its last nibble (30_encoding.md R54). -/
theorem decode_of_row_eight {op : Word} {n : BitVec 4} {i : Instr} (hop : op.toNat / 4096 = 0x8)
    (hn : op.toNat % 16 = n.toNat) (hwf : i.wellFormed = true)
    (hi : encode i = packXYN 0x8#4 (fieldX op) (fieldY op) n) : decode op = i := by
  have hword : encode i = op := by
    rw [hi, ← (fieldN_eq_iff op n).mpr hn]
    exact packXYN_of_fieldMajor ((fieldMajor_eq_iff op 0x8#4).mpr hop)
  exact hword ▸ decodeOfEncodeIsTheInstruction i hwf

end Sys2Proof
end

section
/-!
The frame of each operation on the state: the parts it writes, and that every other part reads the same after it.
-/

namespace Sys2Proof.Machine

/-! ### Memory: the bytes a write does not touch, whatever the form of the list (20_memory.md R35) -/

theorem Memory.read_cons_of_ne {a b : Nat} (h : b ≠ a) (m : Memory) (v : Byte) :
    (Memory.cons a v m).read b = m.read b := by
  unfold Memory.cons
  split
  · rfl
  · simp only [Memory.read, if_neg h]

theorem Memory.read_write_of_ne {a b : Nat} (h : b ≠ a) (v : Byte) : ∀ m : Memory, (m.write a v).read b = m.read b
  | [] => Memory.read_cons_of_ne h [] v
  | (c, w) :: m => by
    unfold Memory.write
    split_ifs with hlt heq
    · exact Memory.read_cons_of_ne h _ v
    · rw [Memory.read_cons_of_ne h, Memory.read, if_neg (heq ▸ h)]
    · simp only [Memory.read, Memory.read_write_of_ne h v m]

theorem Memory.read_writeBlock_of_outside {b : Nat} : ∀ (bs : List Byte) (m : Memory) (a : Nat),
    ¬ (a ≤ b ∧ b < a + bs.length) → (m.writeBlock a bs).read b = m.read b
  | [], _, _, _ => rfl
  | v :: bs, m, a, h => by
    rw [List.length_cons] at h
    rw [Memory.writeBlock, Memory.read_writeBlock_of_outside bs _ _ (by omega), Memory.read_write_of_ne (by omega)]

theorem Memory.read_loadFrom_of_outside {b : Nat} : ∀ (bs : List Byte) (m : Memory) (a : Nat),
    ¬ (a ≤ b ∧ b < a + bs.length ∧ b ≤ 0xFFF) → (m.loadFrom a bs).read b = m.read b
  | [], _, _, _ => rfl
  | v :: bs, m, a, h => by
    rw [List.length_cons] at h
    rw [Memory.loadFrom, Memory.read_loadFrom_of_outside bs _ _ (by omega)]
    split
    · exact Memory.read_write_of_ne (by omega) v m
    · rfl

/-! ### Registers, index and memory -/

theorem SameBut.refl (ps : List Part) (s : State) : SameBut ps s s := by
  intro p _
  cases p <;> rfl

theorem sameBut_setReg (s : State) (r : RegIx) (v : Byte) : SameBut [.reg r] s (s.setReg r v) := by
  intro p hp
  cases p with
  | reg q =>
    have hq : q ≠ r := by simpa using hp
    simp [Part.same, hq]
  | _ => rfl

/-- In either order of writing. -/
theorem sameBut_writeback (s : State) (x : RegIx) (rf : Byte × Bool) :
    SameBut [.reg x, .reg VF] s (s.writeback x rf) := by
  unfold State.writeback
  cases s.cfg.flagOrder with
  | flagLast => exact (sameBut_setReg s x _).trans (sameBut_setReg _ VF _)
  | flagFirst => exact ((sameBut_setReg s VF _).trans (sameBut_setReg _ x _)).mono (by simp)

theorem reg_mem_block {x q : RegIx} (h : q.toNat ≤ x.toNat) :
    Part.reg q ∈ (List.range (x.toNat + 1)).map fun k => Part.reg (BitVec.ofNat 4 k) :=
  List.mem_map.mpr ⟨q.toNat, List.mem_range.mpr (Nat.lt_succ_of_le h), by simp⟩

theorem sameBut_loadRegBlock (s : State) (x : RegIx) (a : Nat) :
    SameBut ((List.range (x.toNat + 1)).map fun k => .reg (BitVec.ofNat 4 k)) s (s.loadRegBlock x a) := by
  intro p hp
  cases p with
  | reg q =>
    have hq : ¬ q.toNat ≤ x.toNat := mt reg_mem_block hp
    exact (State.reg_loadRegBlock s x q a).trans (if_neg hq)
  | _ => simp [Part.same]

theorem sameBut_advanceIndex (s : State) (x : RegIx) : SameBut [.index] s (s.advanceIndex x) := by
  unfold State.advanceIndex
  split
  · exact sameBut_setIndex s _
  · exact SameBut.refl _ s

theorem sameBut_storeAtIndex (s : State) (bs : List Byte) :
    SameBut (bytesFrom s.I.toNat bs.length) s (s.storeAtIndex bs) := by
  intro p hp
  cases p with
  | byte b => exact Memory.read_writeBlock_of_outside bs s.mem _ (mt (mem_bytesFrom _ _ _).mpr hp)
  | _ => rfl

theorem sameBut_loadRom (s : State) (bs : List Byte) :
    SameBut (bytesFrom 0x200 (min bs.length 3584)) s (s.loadRom bs) := by
  intro p hp
  cases p with
  | byte b =>
    rw [mem_bytesFrom] at hp
    exact Memory.read_loadFrom_of_outside bs s.mem 0x200 (by omega)
  | _ => rfl

/-! ### The stack -/

theorem sameBut_push {s : State} (h : s.sp.val < 16) (a : Word) :
    SameBut [.entry ⟨s.sp.val, h⟩, .sp] s
      { s with stack := s.stack.set s.sp.val a h, sp := ⟨s.sp.val + 1, Nat.succ_lt_succ h⟩ } := by
  intro p hp
  cases p with
  | entry j =>
    have hj : s.sp.val ≠ j.val := fun e => hp (by simp [e])
    exact Vector.getElem_set_ne h j.isLt hj
  | sp => exact absurd hp (by simp)
  | _ => rfl

theorem sameBut_sp (s : State) (n : Fin 17) : SameBut [.sp] s { s with sp := n } := by
  intro p hp
  cases p <;> simp_all [Part.same] <;> rfl

/-! ### Whole fields -/

theorem sameBut_setFramebuffer (s : State) (fb : Framebuffer) : SameBut [.fb, .dirty] s (s.setFramebuffer fb) := by
  intro p hp
  cases p <;> simp_all [Part.same]

theorem sameBut_delay (s : State) (v : Byte) : SameBut [.delay] s { s with DT := v } := by
  intro p hp
  cases p <;> simp_all [Part.same] <;> rfl

theorem sameBut_sound (s : State) (v : Byte) : SameBut [.sound] s { s with ST := v } := by
  intro p hp
  cases p <;> simp_all [Part.same] <;> rfl

theorem sameBut_mode (s : State) (m : Mode) : SameBut [.mode] s { s with mode := m } := by
  intro p hp
  cases p <;> simp_all [Part.same] <;> rfl

theorem sameBut_out (s : State) (o : StepOut) : SameBut [.out] s { s with out := o } := by
  intro p hp
  cases p <;> simp_all [Part.same] <;> rfl

theorem sameBut_setScript (s : State) (calls : List HostCall) : SameBut [.script] s (s.setScript calls) := by
  intro p hp
  cases p <;> simp_all [Part.same]

theorem sameBut_setDraws (s : State) (n : Nat) : SameBut [.draws] s (s.setDraws n) := by
  intro p hp
  cases p <;> simp_all [Part.same]

theorem sameBut_tickTimers (s : State) : SameBut [.delay, .sound] s s.tickTimers := by
  intro p hp
  cases p <;> simp_all [Part.same]

theorem sameBut_tickMany (s : State) (n : Nat) : SameBut [.delay, .sound] s (s.tickMany n) := by
  intro p hp
  cases p <;> simp_all [Part.same]

theorem sameBut_beginStep (s : State) (k : Keys) (r : Byte) :
    SameBut [.keys, .dirty, .rndIn, .out] s (s.beginStep k r) := by
  intro p hp
  cases p <;> simp_all [Part.same]

theorem sameBut_report (s : State) : SameBut [.out] s s.report := sameBut_out s _

theorem sameBut_reportFaulted (s : State) : SameBut [.out] s s.reportFaulted := sameBut_out s _

end Sys2Proof.Machine
end

section
/-!
How an instruction ends (40_sequencing.md R70, R71), said once for all of them: by the fault the table of 60_exceptions.md R116
gives it, or with nothing written but the pc and the parts its own rule names.
-/

namespace Sys2Proof.Machine

/-! ### The fault an instruction takes -/

/-- The lowest address outside memory of an access from `I` that leaves it (20_memory.md R37). -/
def State.lowestOutside (s : State) : Word := BitVec.ofNat 16 (max s.I.toNat 0x1000)

theorem State.toNat_lowestOutside (s : State) : s.lowestOutside.toNat = max s.I.toNat 0x1000 := by
  have := s.I.isLt
  rw [State.lowestOutside, BitVec.toNat_ofNat]
  omega

theorem State.eq_lowestOutside {s : State} {a : Word} (h : a.toNat = max s.I.toNat 0x1000) : a = s.lowestOutside :=
  BitVec.eq_of_toNat_eq (h.trans s.toNat_lowestOutside.symm)

/-- The fault an instruction takes from a state, where it takes one (60_exceptions.md R116). -/
def faultOf (i : Instr) (s : State) : Option Fault :=
  match i with
  | .call _ => if s.sp.val = 16 then some (.stackOverflow s.pc) else none
  | .ret => if s.sp.val = 0 then some (.stackUnderflow s.pc) else none
  | .ldB _ => if 0xFFF < s.I.toNat + 2 then some (.memOutOfRange s.lowestOutside) else none
  | .ldMemV x | .ldVMem x => if 0xFFF < s.I.toNat + x.toNat then some (.memOutOfRange s.lowestOutside) else none
  | .drw _ _ n =>
    if 0 < n.toNat ∧ 0xFFF < s.I.toNat + n.toNat - 1 then some (.memOutOfRange s.lowestOutside) else none
  | .skp x | .sknp x => if 0xF < (s.reg x).toNat then some (.keyIndexOutOfRange (s.reg x)) else none
  | _ => none

/-! ### The parts an instruction writes -/

/-- The parts an instruction that takes no fault writes, the pc aside. -/
def writes (i : Instr) (s : State) : List Part :=
  match i with
  | .cls => [.fb, .dirty]
  | .ret => [.sp]
  | .call _ => [.entry (Fin.ofNat 16 s.sp.val), .sp]
  | .ldImm x _ | .addImm x _ | .ldReg x _ | .orReg x _ | .andReg x _ | .xorReg x _ | .rnd x _ | .ldVDt x => [.reg x]
  | .addReg x _ | .sub x _ | .shr x _ | .subn x _ | .shl x _ => [.reg x, .reg VF]
  | .ldI _ | .addI _ | .ldF _ => [.index]
  | .ldB _ => bytesFrom s.I.toNat 3
  | .ldMemV x => .index :: bytesFrom s.I.toNat (x.toNat + 1)
  | .ldVMem x => .index :: (List.range (x.toNat + 1)).map fun k => .reg (BitVec.ofNat 4 k)
  | .drw _ _ _ => [.fb, .dirty, .reg VF]
  | .ldDtV _ => [.delay]
  | .ldStV _ => [.sound]
  | .ldVK _ => [.mode]
  | .unknown _ => [.out]
  | .jp _ | .jpV0 _ | .seImm _ _ | .sneImm _ _ | .seReg _ _ | .sneReg _ _ | .skp _ | .sknp _ => []

/-- A handler's writes and then its directive (40_sequencing.md R70). -/
theorem SameBut.applyDirective {ps : List Part} {s u : State} (h : SameBut ps s u) (d : Directive) :
    SameBut (.pc :: ps) s (u.applyDirective d) :=
  (h.trans (sameBut_applyDirective d u)).mono (by simp [or_comm])

/-! ### The two ends -/

/-- How an instruction ends: by its fault, or in a next state with the frame of its writes. -/
theorem exec_ends (i : Instr) (s : State) :
    (∃ f, faultOf i s = some f ∧ exec i s = .next (s.latchFault f)) ∨
      (faultOf i s = none ∧ ∃ t, exec i s = .next t ∧ SameBut (.pc :: writes i s) s t) := by
  cases i with
  | ret =>
    rcases exec_ret_cases s with ⟨hsp, h⟩ | ⟨hsp, u, -, rfl, h⟩
    · exact .inl ⟨_, if_pos hsp, h⟩
    · exact .inr ⟨if_neg hsp.ne', _, h, (sameBut_sp s _).applyDirective _⟩
  | call nnn =>
    rcases exec_call_cases nnn s with ⟨hsp, h⟩ | ⟨hsp, u, rfl, h⟩
    · exact .inl ⟨_, if_pos hsp, h⟩
    · have hentry : (⟨s.sp.val, hsp⟩ : Fin 16) = Fin.ofNat 16 s.sp.val := Fin.ext (Nat.mod_eq_of_lt hsp).symm
      have hframe := sameBut_push hsp (s.pc + 2#16)
      rw [hentry] at hframe
      exact .inr ⟨if_neg hsp.ne, _, h, hframe.applyDirective _⟩
  | skp x =>
    rcases exec_skp_cases x s with ⟨hx, h⟩ | ⟨hx, h⟩
    · exact .inl ⟨_, if_pos hx, h⟩
    · exact .inr ⟨if_neg (Nat.not_lt.mpr hx), _, h, sameBut_applyDirective _ s⟩
  | sknp x =>
    rcases exec_sknp_cases x s with ⟨hx, h⟩ | ⟨hx, h⟩
    · exact .inl ⟨_, if_pos hx, h⟩
    · exact .inr ⟨if_neg (Nat.not_lt.mpr hx), _, h, sameBut_applyDirective _ s⟩
  | ldB x =>
    rcases exec_ldB_cases x s with ⟨a, hI, ha, h⟩ | ⟨hI, h⟩
    · exact .inl ⟨_, if_pos (by omega), State.eq_lowestOutside ha ▸ h⟩
    · exact .inr ⟨if_neg (by omega), _, h, (sameBut_storeAtIndex s (bcdDigits _)).applyDirective _⟩
  | ldMemV x =>
    rcases exec_ldMemV_cases x s with ⟨a, hI, ha, h⟩ | ⟨hI, h⟩ <;> rw [blockCount] at hI
    · exact .inl ⟨_, if_pos (by omega), State.eq_lowestOutside ha ▸ h⟩
    · have hstore := sameBut_storeAtIndex s (s.regBlock x)
      rw [State.length_regBlock] at hstore
      exact .inr ⟨if_neg (by omega), _, h,
        ((hstore.trans (sameBut_advanceIndex _ x)).mono (by simp [writes, blockCount, or_comm])).applyDirective _⟩
  | ldVMem x =>
    rcases exec_ldVMem_cases x s with ⟨a, hI, ha, h⟩ | ⟨hI, h⟩ <;> rw [blockCount] at hI
    · exact .inl ⟨_, if_pos (by omega), State.eq_lowestOutside ha ▸ h⟩
    · exact .inr ⟨if_neg (by omega), _, h, (((sameBut_loadRegBlock s x _).trans
        (sameBut_advanceIndex _ x)).mono (by simp [writes, or_comm])).applyDirective _⟩
  | drw x y n =>
    rcases exec_drw_cases x y n s with ⟨a, hn, hI, ha, h⟩ | ⟨hI, drawn, -, h⟩
    · exact .inl ⟨_, if_pos (by omega), State.eq_lowestOutside ha ▸ h⟩
    · exact .inr ⟨if_neg (by omega), _, h,
        ((sameBut_setFramebuffer s _).trans (sameBut_setReg _ VF _)).applyDirective _⟩
  | cls => exact .inr ⟨rfl, _, rfl, (sameBut_setFramebuffer s _).applyDirective _⟩
  | ldImm x | addImm x | ldReg x | orReg x | andReg x | xorReg x | rnd x | ldVDt x =>
    exact .inr ⟨rfl, _, rfl, (sameBut_setReg s x _).applyDirective _⟩
  | addReg x | sub x | shr x | subn x | shl x => exact .inr ⟨rfl, _, rfl, (sameBut_writeback s x _).applyDirective _⟩
  | ldI | addI | ldF => exact .inr ⟨rfl, _, rfl, (sameBut_setIndex s _).applyDirective _⟩
  | ldDtV => exact .inr ⟨rfl, _, rfl, (sameBut_delay s _).applyDirective _⟩
  | ldStV => exact .inr ⟨rfl, _, rfl, (sameBut_sound s _).applyDirective _⟩
  | ldVK => exact .inr ⟨rfl, _, rfl, (sameBut_mode s _).applyDirective _⟩
  | unknown => exact .inr ⟨rfl, _, rfl, (sameBut_out s _).applyDirective _⟩
  | jp | jpV0 | seImm | sneImm | seReg | sneReg => exact .inr ⟨rfl, _, rfl, sameBut_applyDirective _ s⟩

theorem exec_of_fault {i : Instr} {s : State} {f : Fault} (h : faultOf i s = some f) :
    exec i s = .next (s.latchFault f) := by
  rcases exec_ends i s with ⟨g, hg, hexec⟩ | ⟨hnone, -⟩
  · rwa [Option.some.inj (h.symm.trans hg)]
  · exact absurd (hnone.symm.trans h) (by simp)

theorem eq_latchFault_of_exec {i : Instr} {s t : State} {f : Fault} (hf : faultOf i s = some f) (h : exec i s = .next t) :
    t = s.latchFault f :=
  Host.Outcome.next.inj (h.symm.trans (exec_of_fault hf))

/-- An instruction's fault is taken as the frame of a fault says. -/
theorem takesFault_of_faultOf {i : Instr} {s : State} {f : Fault} (h : faultOf i s = some f) :
    ∃ t, exec i s = .next t ∧ TakesFault f s t :=
  ⟨_, exec_of_fault h, takesFault_latchFault f s⟩

/-- The frame of an instruction that takes no fault. -/
theorem exec_frame {i : Instr} {s t : State} (hf : faultOf i s = none) (h : exec i s = .next t) :
    SameBut (.pc :: writes i s) s t := by
  rcases exec_ends i s with ⟨f, hf', -⟩ | ⟨-, u, hu, hframe⟩
  · exact absurd (hf.symm.trans hf') (by simp)
  · rwa [Host.Outcome.next.inj (h.symm.trans hu)]

/-- The frame of every instruction, whichever way it ends. -/
theorem sameBut_exec {i : Instr} {s t : State} (h : exec i s = .next t) :
    SameBut (.pc :: .fault :: .dirty :: writes i s) s t := by
  cases hf : faultOf i s with
  | some f =>
    obtain rfl := eq_latchFault_of_exec hf h
    obtain ⟨-, -, hframe⟩ := takesFault_latchFault f s
    exact hframe.mono (by simp)
  | none => exact (exec_frame hf h).mono (by simp +contextual)

end Sys2Proof.Machine
end

section
/-!
How a transition ends (40_sequencing.md R59, R73), said once: the one inversion every statement about `step` goes through, and
the invariants it keeps.
-/

namespace Sys2Proof.Machine

/-! ### The ways a call can end -/

/-- What a host call made in the state `u` can leave. -/
inductive CallEnds (u : State) : State → Prop
  /-- `tick_timers()` (60_exceptions.md R122). -/
  | tick : CallEnds u u.tickTimers
  /-- `load(bytes)` (40_sequencing.md R75). -/
  | load (bytes : List Byte) : CallEnds u (u.loadRom bytes)
  /-- `step` with a fault latched (R62). -/
  | faulted (f : Fault) (hf : u.fault = some f) : CallEnds u u.reportFaulted
  /-- `step` in wait mode (R66). -/
  | waiting (k : Keys) (r : Byte) (x : RegIx) (hf : u.fault = none) (hm : u.mode = .awaitingKey x) :
      CallEnds u ((u.beginStep k r).resume x).report
  /-- `step` in mode Running whose fetch leaves memory (R67). -/
  | fetchFault (k : Keys) (r : Byte) (hf : u.fault = none) (hm : u.mode = .running) (hpc : 0xFFF < u.pc.toNat + 1) :
      CallEnds u ((u.beginStep k r).latchFault (.fetchOutOfRange u.pc)).report
  /-- `step` in mode Running that runs an instruction (R68). -/
  | executed (k : Keys) (r : Byte) (i : Instr) (v : State) (hf : u.fault = none) (hm : u.mode = .running)
      (hpc : u.pc.toNat + 1 ≤ 0xFFF) (hv : exec i (u.beginStep k r) = .next v) : CallEnds u v.report

theorem stepCall_ends (u : State) (k : Keys) (r : Byte) : ∃ t, u.stepCall k r = .next t ∧ CallEnds u t := by
  rcases stepCall_cases u k r with ⟨f, hf, h⟩ | ⟨x, hf, hm, h⟩ | ⟨hf, hm, h⟩
  · exact ⟨_, h, .faulted f hf⟩
  · exact ⟨_, h, .waiting k r x hf hm⟩
  · rcases runInstr_cases (u.beginStep k r) with ⟨hpc, hrun⟩ | ⟨hpc, op, -, hrun⟩
    · exact ⟨_, h.trans (by rw [hrun, reportResult_next, State.beginStep_pc]), .fetchFault k r hf hm hpc⟩
    · obtain ⟨v, hv, -⟩ := exec_completes (decode op) (u.beginStep k r)
      exact ⟨_, h.trans (by rw [hrun, hv, reportResult_next]), .executed k r _ v hf hm hpc hv⟩

/-- The state in which the host's call is made differs from the one before in the timers, the script and the draws alone
(40_sequencing.md R60). -/
def State.called (s : State) (n : Nat) (calls : List HostCall) (d : Nat) : State :=
  ((s.tickMany n).setScript calls).setDraws d

theorem State.called_zero (s : State) (calls : List HostCall) : s.called 0 calls s.draws = s.setScript calls := by
  rw [State.called, State.tickMany_zero]; rfl

theorem sameBut_called (s : State) (n : Nat) (calls : List HostCall) (d : Nat) :
    SameBut [.delay, .sound, .script, .draws] s (s.called n calls d) :=
  ((sameBut_tickMany s n).trans (sameBut_setScript _ calls)).trans (sameBut_setDraws _ d)

/-- Every transition answers a next state, which is what some call leaves. -/
theorem step_ends (s : State) : ∃ n calls d t, step s = .next t ∧ CallEnds (s.called n calls d) t := by
  rcases step_is_a_call s with h | ⟨bytes, h⟩ | ⟨k, r, n, d, h⟩
  · exact ⟨0, s.script.tail, s.draws, _, h, by rw [State.called_zero]; exact .tick⟩
  · exact ⟨0, s.script.tail, s.draws, _, h, by rw [State.called_zero]; exact .load bytes⟩
  · obtain ⟨t, ht, hends⟩ := stepCall_ends (s.called n s.script.tail d) k r
    exact ⟨n, _, d, t, h.trans ht, hends⟩

/-- What holds of the state a call is made in where it held before, and what every call keeps, every transition keeps. -/
theorem step_keeps {P : State → Prop} (hcalled : ∀ s n calls d, P s → P (s.called n calls d))
    (hcall : ∀ u t, P u → CallEnds u t → P t) (s t : State) (hs : P s) (h : step s = .next t) : P t := by
  obtain ⟨n, calls, d, t', ht', hends⟩ := step_ends s
  obtain rfl : t = t' := Host.Outcome.next.inj (h.symm.trans ht')
  exact hcall _ _ (hcalled s n calls d hs) hends

/-! ### The resume test (40_sequencing.md R66) -/

theorem sameBut_resume (s : State) (x : RegIx) : SameBut [.reg x, .mode, .pc] s (s.resume x) := by
  cases h : leastKey s.keys with
  | none => rw [resume_none x h]; exact SameBut.refl _ s
  | some k =>
    rw [resume_some x h]
    exact ((sameBut_setReg s x _).trans (sameBut_mode _ .running)).trans
      (sameBut_applyDirective (.jump (s.pc + 2#16)) _)

theorem State.resume_mem (s : State) (x : RegIx) : (s.resume x).mem = s.mem := by
  unfold State.resume
  split <;> rfl

/-! ### Memory stays canonical (20_memory.md R34) -/

/-- What an instruction does to memory: nothing, or a store of a block the range check lets through. -/
theorem exec_mem_cases {i : Instr} {s t : State} (h : exec i s = .next t) :
    t.mem = s.mem ∨ ∃ bs, s.I.toNat + bs.length ≤ 0x1000 ∧ t.mem = (s.storeAtIndex bs).mem := by
  cases i with
  | ldB x =>
    rcases exec_ldB_cases x s with ⟨_, -, -, hexec⟩ | ⟨hI, hexec⟩ <;> cases hexec.symm.trans h
    · exact .inl rfl
    · exact .inr ⟨bcdDigits (s.reg x), hI, rfl⟩
  | ldMemV x =>
    rcases exec_ldMemV_cases x s with ⟨_, -, -, hexec⟩ | ⟨hI, hexec⟩ <;> cases hexec.symm.trans h
    · exact .inl rfl
    · exact .inr ⟨s.regBlock x, by rwa [State.length_regBlock], by simp⟩
  | ldVMem x =>
    rcases exec_ldVMem_cases x s with ⟨_, -, -, hexec⟩ | ⟨-, hexec⟩ <;> cases hexec.symm.trans h <;> exact .inl (by simp)
  | ret =>
    rcases exec_ret_cases s with ⟨-, hexec⟩ | ⟨_, u, -, rfl, hexec⟩ <;> cases hexec.symm.trans h <;> exact .inl rfl
  | call nnn =>
    rcases exec_call_cases nnn s with ⟨-, hexec⟩ | ⟨_, u, rfl, hexec⟩ <;> cases hexec.symm.trans h <;> exact .inl rfl
  | skp x =>
    rcases exec_skp_cases x s with ⟨-, hexec⟩ | ⟨-, hexec⟩ <;> cases hexec.symm.trans h <;> exact .inl (by simp)
  | sknp x =>
    rcases exec_sknp_cases x s with ⟨-, hexec⟩ | ⟨-, hexec⟩ <;> cases hexec.symm.trans h <;> exact .inl (by simp)
  | drw x y n =>
    rcases exec_drw_cases x y n s with ⟨_, -, -, -, hexec⟩ | ⟨-, _, -, hexec⟩ <;> cases hexec.symm.trans h <;>
      exact .inl rfl
  | _ => cases h; exact .inl (by simp)

theorem exec_keeps_memOk {i : Instr} {s t : State} (hs : s.MemOk) (h : exec i s = .next t) : t.MemOk := by
  unfold State.MemOk at hs ⊢
  rcases exec_mem_cases h with hmem | ⟨bs, hI, hmem⟩
  · rwa [hmem]
  · rw [hmem]
    exact Memory.wf_writeBlock hs hI

theorem callEnds_memOk {u t : State} (hu : u.MemOk) (h : CallEnds u t) : t.MemOk := by
  cases h with
  | tick => exact hu
  | load bytes => exact Memory.wf_loadFrom hu
  | faulted => exact hu
  | waiting k r x => rwa [State.MemOk, State.report_mem, State.resume_mem]
  | fetchFault => exact hu
  | executed k r i v _ _ _ hv =>
    have hkept : v.MemOk := exec_keeps_memOk (s := u.beginStep k r) hu hv
    exact hkept

/-- Settles O51: a load keeps the canonical form, an instruction stores only what the range check lets through, and no other
call touches memory. -/
theorem stepKeepsMemoryCanonical : Obligations.StepKeepsMemoryCanonical :=
  step_keeps (fun _ _ _ _ hs => hs) fun _ _ => callEnds_memOk

/-! ### A latched fault stays explained (60_exceptions.md R116, R118) -/

theorem faultOk_of_no_fault {s : State} (h : s.fault = none) : s.FaultOk :=
  fun _ hf => absurd (h.symm.trans hf) (by simp)

/-- The fault an instruction takes is explained by the state it leaves. -/
theorem faultOk_latchFault {i : Instr} {s : State} {f : Fault} (h : faultOf i s = some f) (hm : s.mode = .running) :
    (s.latchFault f).FaultOk := by
  rintro _ ⟨⟩
  refine ⟨hm, rfl, ?_⟩
  cases i <;> simp only [faultOf, Option.ite_none_right_eq_some, Option.some.injEq, reduceCtorEq] at h <;>
    obtain ⟨hcause, rfl⟩ := h
  case call | ret => exact ⟨rfl, hcause⟩
  case skp | sknp => exact hcause
  case ldB | ldMemV | ldVMem | drw => exact s.toNat_lowestOutside

/-- An instruction that takes no fault latches none. -/
theorem exec_fault_eq {i : Instr} {s t : State} (hf : faultOf i s = none) (h : exec i s = .next t) :
    t.fault = s.fault :=
  exec_frame hf h .fault (by cases i <;> simp [writes, bytesFrom])

theorem exec_keeps_faultOk {i : Instr} {s t : State} (hs : s.fault = none) (hm : s.mode = .running)
    (h : exec i s = .next t) : t.FaultOk := by
  cases hf : faultOf i s with
  | some f =>
    obtain rfl := eq_latchFault_of_exec hf h
    exact faultOk_latchFault hf hm
  | none => exact faultOk_of_no_fault ((exec_fault_eq hf h).trans hs)

theorem callEnds_faultOk {u t : State} (hu : u.FaultOk) (h : CallEnds u t) : t.FaultOk := by
  cases h with
  | tick => exact hu
  | load => exact hu
  | faulted => exact hu
  | waiting k r x hf =>
    exact faultOk_of_no_fault ((sameBut_resume (u.beginStep k r) x .fault (by simp)).trans hf)
  | fetchFault k r hf hm hpc =>
    rintro _ ⟨⟩
    exact ⟨hm, rfl, rfl, hpc⟩
  | executed k r i v hf hm _ hv =>
    have hkept : v.FaultOk := exec_keeps_faultOk (s := u.beginStep k r) hf hm hv
    exact hkept

/-- Settles O52: a fault is explained where it is latched, and no later call touches the parts that explain it. -/
theorem stepKeepsFaultsExplained : Obligations.StepKeepsFaultsExplained :=
  step_keeps (fun _ _ _ _ hs => hs) fun _ _ => callEnds_faultOk

/-! ### The pc stays bounded (40_sequencing.md R70) -/

@[simp] theorem toNat_zextByte (v : Byte) : (zextByte v).toNat = v.toNat :=
  BitVec.toNat_setWidth_of_le (by decide)

/-- Where an instruction leaves the pc. -/
theorem exec_pc_cases {i : Instr} {s t : State} (h : exec i s = .next t) :
    (t.pc = s.pc ∨ t.pc = s.pc + 2#16 ∨ t.pc = s.pc + 4#16) ∨
      (∃ nnn, t.pc = zextAddr nnn ∨ t.pc = zextAddr nnn + zextByte (s.reg V0)) ∨
      ∃ j : Fin 16, j.val < s.sp.val ∧ t.pc = s.stack[j] := by
  cases i with
  | jp nnn => cases h; exact .inr (.inl ⟨nnn, .inl rfl⟩)
  | jpV0 nnn => cases h; exact .inr (.inl ⟨nnn, .inr rfl⟩)
  | call nnn =>
    rcases exec_call_cases nnn s with ⟨-, hexec⟩ | ⟨_, u, -, hexec⟩ <;> cases hexec.symm.trans h
    · exact .inl (.inl rfl)
    · exact .inr (.inl ⟨nnn, .inl rfl⟩)
  | ret =>
    rcases exec_ret_cases s with ⟨-, hexec⟩ | ⟨hsp, u, -, -, hexec⟩ <;> cases hexec.symm.trans h
    · exact .inl (.inl rfl)
    · have := s.sp.isLt
      exact .inr (.inr ⟨⟨s.sp.val - 1, by omega⟩, Nat.sub_one_lt_of_lt hsp, rfl⟩)
  | skp x =>
    rcases exec_skp_cases x s with ⟨-, hexec⟩ | ⟨-, hexec⟩ <;> cases hexec.symm.trans h
    · exact .inl (.inl rfl)
    · rw [State.applyDirective_if_pc]; split <;> simp
  | sknp x =>
    rcases exec_sknp_cases x s with ⟨-, hexec⟩ | ⟨-, hexec⟩ <;> cases hexec.symm.trans h
    · exact .inl (.inl rfl)
    · rw [State.applyDirective_if_pc]; split <;> simp
  | seImm | sneImm | seReg | sneReg =>
    obtain rfl := Host.Outcome.next.inj h
    rw [State.applyDirective_if_pc]; split <;> simp
  | ldVK x => cases h; exact .inl (.inl rfl)
  | ldB x =>
    rcases exec_ldB_cases x s with ⟨_, -, -, hexec⟩ | ⟨-, hexec⟩ <;> cases hexec.symm.trans h <;> exact .inl (by simp)
  | ldMemV x =>
    rcases exec_ldMemV_cases x s with ⟨_, -, -, hexec⟩ | ⟨-, hexec⟩ <;> cases hexec.symm.trans h <;> exact .inl (by simp)
  | ldVMem x =>
    rcases exec_ldVMem_cases x s with ⟨_, -, -, hexec⟩ | ⟨-, hexec⟩ <;> cases hexec.symm.trans h <;> exact .inl (by simp)
  | drw x y n =>
    rcases exec_drw_cases x y n s with ⟨_, -, -, -, hexec⟩ | ⟨-, _, -, hexec⟩ <;> cases hexec.symm.trans h <;>
      exact .inl (by simp)
  | _ => cases h; exact .inl (.inr (.inl (by simp)))

/-- What an instruction leaves in an occupied stack entry: what an occupied entry held, or the return address of a call. -/
theorem exec_entry_cases {i : Instr} {s t : State} (h : exec i s = .next t) (j : Fin 16) (hj : j.val < t.sp.val) :
    (j.val < s.sp.val ∧ t.stack[j] = s.stack[j]) ∨ t.stack[j] = s.pc + 2#16 := by
  cases i with
  | ret =>
    rcases exec_ret_cases s with ⟨-, hexec⟩ | ⟨_, u, -, rfl, hexec⟩ <;> cases hexec.symm.trans h
    · exact .inl ⟨hj, rfl⟩
    · exact .inl ⟨lt_of_lt_of_le hj (Nat.sub_le _ _), rfl⟩
  | call nnn =>
    rcases exec_call_cases nnn s with ⟨-, hexec⟩ | ⟨hsp, u, rfl, hexec⟩ <;> cases hexec.symm.trans h
    · exact .inl ⟨hj, rfl⟩
    · have hframe := sameBut_push hsp (s.pc + 2#16) (.entry j)
      rcases Nat.lt_succ_iff_lt_or_eq.mp hj with hlt | heq
      · exact .inl ⟨hlt, hframe (by simp [Fin.ext_iff, hlt.ne])⟩
      · exact .inr (by simp [heq])
  | _ =>
    have hframe := sameBut_exec h
    have hsp : t.sp = s.sp := hframe .sp (by simp [writes, bytesFrom])
    exact .inl ⟨hsp ▸ hj, hframe (.entry j) (by simp [writes, bytesFrom])⟩

/-- An instruction that enters wait mode leaves the pc (45_io.md R114). -/
theorem exec_pc_of_waiting {i : Instr} {s t : State} (hm : s.mode = .running) (h : exec i s = .next t)
    (ht : t.mode ≠ .running) : t.pc = s.pc := by
  obtain ⟨t', ht', hmode, -⟩ := exec_completes i s
  obtain rfl : t = t' := Host.Outcome.next.inj (h.symm.trans ht')
  cases i with
  | ldVK x => cases h; rfl
  | _ => exact absurd (hmode.trans hm) ht

/-- From an address inside memory, where the stack holds addresses the pc may return to. -/
theorem exec_keeps_pcOk {i : Instr} {s t : State} (hs : s.PcOk) (hm : s.mode = .running) (hpc : s.pc.toNat + 1 ≤ 0xFFF)
    (h : exec i s = .next t) : t.PcOk := by
  obtain ⟨-, -, hstack⟩ := hs
  have hreturn : (s.pc + 2#16).toNat ≤ 0x1000 := by rw [BitVec.toNat_add]; simp; omega
  refine ⟨?_, fun ht => by rw [exec_pc_of_waiting hm h ht]; omega, fun j hj => ?_⟩
  · rcases exec_pc_cases h with (e | e | e) | ⟨nnn, e | e⟩ | ⟨j, hj, e⟩ <;> rw [e]
    · omega
    · omega
    · rw [BitVec.toNat_add]; simp; omega
    · exact (zextAddr_le nnn).trans (by decide)
    · have hnnn := zextAddr_le nnn
      have hV0 := (s.reg V0).isLt
      rw [BitVec.toNat_add, toNat_zextByte]
      omega
    · exact (hstack j hj).trans (by decide)
  · rcases exec_entry_cases h j hj with ⟨hlt, e⟩ | e <;> rw [e]
    · exact hstack j hlt
    · exact hreturn

theorem resume_keeps_pcOk {s : State} (hs : s.PcOk) (hm : s.mode ≠ .running) (x : RegIx) : (s.resume x).PcOk := by
  cases h : leastKey s.keys with
  | none => rwa [resume_none x h]
  | some k =>
    obtain ⟨-, hwait, hstack⟩ := hs
    have hpc : s.pc.toNat ≤ 0xFFE := hwait hm
    have hnext : (s.pc + 2#16).toNat ≤ 0x10FE := by rw [BitVec.toNat_add]; simp; omega
    rw [resume_some x h]
    exact ⟨hnext, fun hne => absurd rfl hne, hstack⟩

theorem callEnds_pcOk {u t : State} (hu : u.PcOk) (h : CallEnds u t) : t.PcOk := by
  cases h with
  | tick => exact hu
  | load => exact hu
  | faulted => exact hu
  | waiting k r x _ hm =>
    exact resume_keeps_pcOk (s := u.beginStep k r) hu (fun hr => by simp [hm] at hr) x
  | fetchFault => exact hu
  | executed k r i v _ hm hpc hv =>
    have hkept : v.PcOk := exec_keeps_pcOk (s := u.beginStep k r) hu hm hpc hv
    exact hkept

/-- Settles O53: by what the resume test and the instructions can make of the pc, the mode and the stack. -/
theorem stepKeepsThePcBounded : Obligations.StepKeepsThePcBounded :=
  step_keeps (fun _ _ _ _ hs => hs) fun _ _ => callEnds_pcOk

end Sys2Proof.Machine
end

section
/-!
Reset and the host's calls (10_state.md section 11; 40_sequencing.md; 60_exceptions.md section 3).
-/

namespace Sys2Proof.Machine

/-! ### Reset -/

/-- Settles O1: every field of the reset state holds the table's value (10_state.md R31). -/
theorem resetHoldsTheTableValues : Obligations.ResetHoldsTheTableValues :=
  ⟨rfl, by decide, rfl, rfl, by decide, rfl, rfl, by decide, rfl, by decide, rfl, rfl, fun _ => rfl⟩

theorem memOk_resetWith (c : Config) : (State.resetWith c).MemOk :=
  Memory.wf_writeBlock Memory.wf_nil (by simp [memSize])

/-- Settles O2: reset latches no fault, its pc is 0x200, its stack is empty, and its memory is a block written to the empty
one. -/
theorem resetMeetsTheInvariants : Obligations.ResetMeetsTheInvariants := by
  refine ⟨Memory.wf_nil, faultOk_of_no_fault rfl, ⟨by decide, fun _ => by decide, fun j hj => ?_⟩, memOk_resetWith⟩
  exact absurd hj (Nat.not_lt_zero _)

/-! ### Running the instruction fetched -/

theorem runInstr_of_fetch {s : State} {op : Word} (h : s.fetch = some op) : s.runInstr = exec (decode op) s := by
  rw [State.runInstr, h]

theorem runInstr_of_no_fetch {s : State} (h : s.fetch = none) :
    s.runInstr = .next (s.latchFault (.fetchOutOfRange s.pc)) := by
  rw [State.runInstr, h]
  rfl

/-- A scripted step call that finds an instruction to run; the calls to come and the start of the step leave the fetch. -/
theorem step_executing {s : State} {k : Keys} {r : Byte} {rest : List HostCall} {op : Word}
    (hs : s.script = .step k r :: rest) (hf : s.fault = none) (hm : s.mode = .running) (hop : s.fetch = some op) :
    step s = reportResult (exec (decode op) ((s.setScript rest).beginStep k r)) :=
  (step_running hs hf hm).trans
    (congrArg reportResult (runInstr_of_fetch (s := (s.setScript rest).beginStep k r) hop))

/-- A scripted step call whose fetch leaves memory. -/
theorem step_fetch_fault {s : State} {k : Keys} {r : Byte} {rest : List HostCall}
    (hs : s.script = .step k r :: rest) (hf : s.fault = none) (hm : s.mode = .running) (hop : s.fetch = none) :
    step s = .next (((s.setScript rest).beginStep k r).latchFault (.fetchOutOfRange s.pc)).report :=
  (step_running hs hf hm).trans
    (congrArg reportResult (runInstr_of_no_fetch (s := (s.setScript rest).beginStep k r) hop))

/-- An unscripted one that finds an instruction, whose inputs are free. -/
theorem step_executing_unscripted {s : State} {op : Word} (hs : s.script = []) (hf : s.fault = none)
    (hm : s.mode = .running) (hop : s.fetch = some op) :
    step s = reportResult (exec (decode op)
      (((s.tickMany (Config.freeTicks s.draws)).setDraws (s.draws + 1)).beginStep
        (Config.freeKeys s.draws) (Config.freeRnd s.draws))) :=
  ((step_unscripted hs).trans
    (stepCall_running (s := (s.tickMany (Config.freeTicks s.draws)).setDraws (s.draws + 1)) _ _ hf hm)).trans
    (congrArg reportResult (runInstr_of_fetch (s := ((s.tickMany (Config.freeTicks s.draws)).setDraws
      (s.draws + 1)).beginStep (Config.freeKeys s.draws) (Config.freeRnd s.draws)) hop))

/-- Settles O3: from reset the fetch finds the word 0x0000, which the sentinel runs. -/
theorem firstStepFindsTheSentinel : Obligations.FirstStepFindsTheSentinel :=
  ⟨_, step_executing_unscripted (op := 0x0000#16) rfl rfl rfl rfl, rfl, rfl, rfl, by decide, rfl⟩

/-- Settles O4: the fetch finds the word of the two bytes at the pc, and the step runs what it decodes to. -/
theorem stepRunsTheDecodedInstruction : Obligations.StepRunsTheDecodedInstruction := by
  rintro s i hf hm hpc rfl
  exact ⟨fun k r rest hs => step_executing hs hf hm (fetch_eq_some hpc),
    fun hs => step_executing_unscripted hs hf hm (fetch_eq_some hpc)⟩

/-! ### The scripted calls -/

theorem sameBut_begun (s : State) (rest : List HostCall) (k : Keys) (r : Byte) :
    SameBut [.script, .keys, .dirty, .rndIn, .out] s ((s.setScript rest).beginStep k r) :=
  (sameBut_setScript s rest).trans (sameBut_beginStep _ k r)

/-- Settles O6: the fetch leaves memory, so the step takes the fault in the state it begins. -/
theorem fetchOutsideMemoryFaults : Obligations.FetchOutsideMemoryFaults := by
  intro s k r rest hs hf hm hpc
  obtain ⟨-, -, hlatch⟩ := takesFault_latchFault (.fetchOutOfRange s.pc) ((s.setScript rest).beginStep k r)
  refine ⟨_, step_fetch_fault hs hf hm ((fetch_eq_none s).mpr hpc), rfl, rfl, rfl, rfl, rfl, rfl, ?_⟩
  exact (((sameBut_begun s rest k r).trans hlatch).trans (sameBut_report _)).mono (by simp)

/-- Settles O7: the step call only reports. -/
theorem faultedStepChangesNothing : Obligations.FaultedStepChangesNothing := by
  intro s f k r rest hs hf
  refine ⟨_, step_faulted hs hf, ?_, rfl, ?_⟩
  · rw [State.reportFaulted_out, State.setScript_fault, hf]
  · exact ((sameBut_setScript s rest).trans (sameBut_reportFaulted _)).mono (by simp)

/-- Settles O9: with no key pressed the resume test leaves the state. -/
theorem waitingStepWithoutAKeyStays : Obligations.WaitingStepWithoutAKeyStays := by
  intro s x r rest hs hf hm
  have hresume : ((s.setScript rest).beginStep 0x0000#16 r).resume x = (s.setScript rest).beginStep 0x0000#16 r :=
    resume_none x ((leastKey_eq_none_iff_eq_zero _).mpr rfl)
  refine ⟨_, (step_waiting hs hf hm).trans (by rw [hresume]), rfl, rfl, ?_, ?_⟩
  · simp [hf]
  · exact ((sameBut_begun s rest _ r).trans (sameBut_report _)).mono (by simp)

/-- Settles O10: the resume test finds the least key, writes its number and advances. -/
theorem waitingStepTakesTheLeastKey : Obligations.WaitingStepTakesTheLeastKey := by
  intro s x j k r rest hs hf hm hj hleast
  have hkey : leastKey ((s.setScript rest).beginStep k r).keys = some j.toNat := (leastKey_eq_some k j).mpr ⟨hj, hleast⟩
  have hresume := resume_some x hkey
  have hframe := sameBut_resume ((s.setScript rest).beginStep k r) x
  rw [hresume] at hframe
  refine ⟨_, (step_waiting hs hf hm).trans (by rw [hresume]), ?_, rfl, rfl, rfl, rfl, ?_, ?_⟩
  · have hreg : (((s.setScript rest).beginStep k r).setReg x (BitVec.ofNat 8 j.toNat)).reg x = BitVec.ofNat 8 j.toNat := by
      rw [State.reg_setReg, if_pos rfl]
    exact (congrArg BitVec.toNat hreg).trans (by simp; omega)
  · simp [State.report, hf]
  · exact (((sameBut_begun s rest k r).trans hframe).trans (sameBut_report _)).mono (by simp)

/-- Settles O12: the tick counts each timer down to zero and no further. -/
theorem tickCountsBothTimersDown : Obligations.TickCountsBothTimersDown := by
  intro s rest hs
  refine ⟨_, step_scripted hs, toNat_tickDown _, toNat_tickDown _, rfl, ?_⟩
  exact ((sameBut_setScript s rest).trans (sameBut_tickTimers _)).mono (by simp)

/-- Settles O13: the load writes the bytes that lie inside memory, and no other part. -/
theorem loadCopiesFrom0x200 : Obligations.LoadCopiesFrom0x200 := by
  intro s bytes rest hs hscript
  refine ⟨_, step_scripted hscript, rfl, fun k hk hcap => ?_, ?_⟩
  · have hread := readByte_loadRom (s := s.setScript rest) bytes (0x200 + k) hs
    rwa [if_pos (by omega), Nat.add_sub_cancel_left] at hread
  · exact ((sameBut_setScript s rest).trans (sameBut_loadRom _ bytes)).mono (by simp)

/-- Settles O14: the jump leads back to its own address, and the fetch there finds it again. -/
theorem idleLoopStepChangesNothing : Obligations.IdleLoopStepChangesNothing := by
  rintro s k r rest hs hf ⟨hm, op, nnn, hop, hdecode, hnnn⟩
  have hloop : zextAddr nnn = s.pc := BitVec.eq_of_toNat_eq ((toNat_zextAddr nnn).trans hnnn)
  have hstep := step_executing hs hf hm hop
  have hstays : ((s.setScript rest).beginStep k r).applyDirective (.jump s.pc) = (s.setScript rest).beginStep k r := rfl
  rw [hdecode, exec_jp, hloop, reportResult_next, hstays] at hstep
  refine ⟨_, hstep, ⟨hm, op, nnn, hop, hdecode, hnnn⟩, rfl, rfl, ?_⟩
  exact ((sameBut_begun s rest k r).trans (sameBut_report _)).mono (by simp)

/-! ### What the screen reports (10_state.md R25; 40_sequencing.md R64, R72) -/

/-- An instruction leaves a clear dirty flag set exactly where it clears the screen or draws. -/
theorem exec_dirty_iff {i : Instr} {s t : State} (hs : s.dirty = false) (h : exec i s = .next t) :
    t.dirty = true ↔ i = .cls ∨ ∃ x y n, i = .drw x y n ∧ (n = 0x0#4 ∨ s.I.toNat + n.toNat ≤ 0x1000) := by
  cases i with
  | cls => cases h; simp
  | drw x y n =>
    have hn : n = 0x0#4 ↔ n.toNat = 0 := BitVec.toNat_inj.symm
    rcases exec_drw_cases x y n s with ⟨_, hpos, hI, -, hexec⟩ | ⟨hI, _, -, hexec⟩ <;> cases hexec.symm.trans h
    · simp [hn]; omega
    · simp [hn]; omega
  | _ =>
    have hkept : t.dirty = false := by
      rcases exec_ends _ s with ⟨f, -, hexec⟩ | ⟨hf, -⟩
      · cases hexec.symm.trans h; rfl
      · exact (exec_frame hf h .dirty (by simp [writes, bytesFrom])).trans hs
    simp [hkept]

theorem exec_keys {i : Instr} {s t : State} (h : exec i s = .next t) : t.keys = s.keys :=
  sameBut_exec h .keys (by cases i <;> simp [writes, bytesFrom])

/-- Settles O11: by the mode the step call begins in, and in mode Running by what the fetch finds. -/
theorem stepLatchesKeysAndReportsDirty : Obligations.StepLatchesKeysAndReportsDirty := by
  intro s t k r rest hs hf h
  cases hm : s.mode with
  | awaitingKey x =>
    obtain rfl := Host.Outcome.next.inj ((step_waiting hs hf hm).symm.trans h)
    have hframe := sameBut_resume ((s.setScript rest).beginStep k r) x
    have hdirty : (((s.setScript rest).beginStep k r).resume x).dirty = false := hframe .dirty (by simp)
    exact ⟨hframe .keys (by simp), rfl, rfl, by simp [hdirty]⟩
  | running =>
    cases hop : s.fetch with
    | none =>
      obtain rfl := Host.Outcome.next.inj ((step_fetch_fault hs hf hm hop).symm.trans h)
      exact ⟨rfl, rfl, rfl, by simp⟩
    | some op =>
      obtain ⟨v, hv, -⟩ := exec_completes (decode op) ((s.setScript rest).beginStep k r)
      obtain rfl : t = v.report := Host.Outcome.next.inj
        (h.symm.trans ((step_executing hs hf hm hop).trans (by rw [hv, reportResult_next])))
      exact ⟨exec_keys hv, rfl, rfl, (exec_dirty_iff rfl hv).trans (by simp)⟩

/-! ### A latched fault, and completion, over every call (60_exceptions.md sections 1 and 2) -/

/-- Settles O8: with a fault latched the call is a tick, a load or a step that only reports. -/
theorem faultStaysLatched : Obligations.FaultStaysLatched := by
  intro s f _ hf
  obtain ⟨n, calls, d, t, ht, hends⟩ := step_ends s
  have hcalled := sameBut_called s n calls d
  have hlatched : (s.called n calls d).fault = some f := hf
  refine ⟨t, ht, ?_⟩
  cases hends with
  | tick =>
    exact ⟨hf, fun p _ hp => (hcalled.trans (sameBut_tickTimers _)) p (by simp_all)⟩
  | load bytes =>
    refine ⟨hf, fun p hbyte hp => (hcalled.trans (sameBut_loadRom _ bytes)) p ?_⟩
    have hrom : p ∉ bytesFrom 0x200 (min bytes.length 3584) := fun hmem => by
      obtain ⟨a, rfl⟩ := not_byte_mem_bytesFrom hmem
      exact hbyte a ((mem_bytesFrom _ _ _).mp hmem).1 rfl
    simp_all
  | faulted =>
    exact ⟨hf, fun p _ hp => (hcalled.trans (sameBut_reportFaulted _)) p (by simp_all)⟩
  | waiting _ _ _ hnone | fetchFault _ _ hnone | executed _ _ _ _ hnone =>
    exact absurd (hnone.symm.trans hlatched) (by simp)

theorem callEnds_cfg {u t : State} (h : CallEnds u t) : t.cfg = u.cfg := by
  cases h with
  | tick => rfl
  | load => rfl
  | faulted => rfl
  | waiting k r x => exact sameBut_resume (u.beginStep k r) x .cfg (by simp)
  | fetchFault => rfl
  | executed k r i v _ _ _ hv =>
    obtain ⟨v', hv', -, hcfg⟩ := exec_completes i (u.beginStep k r)
    obtain rfl : v = v' := Host.Outcome.next.inj (hv.symm.trans hv')
    exact hcfg

/-- Settles O50: every instruction completes, and every transition ends as some call does. -/
theorem everyTransitionCompletes : Obligations.EveryTransitionCompletes := by
  constructor
  · intro i s
    obtain ⟨t, ht, -, hcfg⟩ := exec_completes i s
    exact ⟨t, ht, hcfg⟩
  · intro s
    obtain ⟨n, calls, d, t, ht, hends⟩ := step_ends s
    have hcfg : (s.called n calls d).cfg = s.cfg := rfl
    exact ⟨t, ht, (callEnds_cfg hends).trans hcfg⟩

end Sys2Proof.Machine
end

section
/-!
The control instructions, the skips and the arithmetic (41_control.md, 42_skip.md, 43_alu.md).
-/

namespace Sys2Proof.Machine

/-! ### Control (41_control.md) -/

theorem pixel_blankFramebuffer (px : Fin 64) (py : Fin 32) : blankFramebuffer.pixel px py = false := by
  simp [Framebuffer.pixel, blankFramebuffer]

/-- Settles O16: the framebuffer is replaced by the blank one. -/
theorem clsClearsEveryPixel : Obligations.ClsClearsEveryPixel := fun s =>
  ⟨_, rfl, pixel_blankFramebuffer, rfl, rfl, (exec_frame (i := .cls) rfl rfl).mono (by simp [writes])⟩

/-- Settles O17: one word is a return, and the pop finds an entry or the stack is empty. -/
theorem retPopsTheReturnAddress : Obligations.RetPopsTheReturnAddress := by
  refine ⟨decode_eq_ret_iff, fun s hsp => ?_, fun s hsp => takesFault_of_faultOf (if_pos hsp)⟩
  rcases exec_ret_cases s with ⟨hempty, -⟩ | ⟨_, u, -, rfl, hexec⟩
  · exact absurd hempty hsp.ne'
  · exact ⟨_, hexec, rfl, rfl, (exec_frame (i := .ret) (if_neg hsp.ne') hexec).mono (by simp [writes])⟩

/-- A call with room on the stack: the state it leaves. -/
theorem exec_call_of_lt {s : State} (nnn : Addr) (hsp : s.sp.val < 16) :
    ∃ t, exec (.call nnn) s = .next t ∧ t.stack[s.sp.val] = s.pc + 2#16 ∧ t.sp.val = s.sp.val + 1 ∧
      t.pc.toNat = nnn.toNat ∧ SameBut [.entry ⟨s.sp.val, hsp⟩, .sp, .pc] s t := by
  rcases exec_call_cases nnn s with ⟨hfull, -⟩ | ⟨_, u, rfl, hexec⟩
  · exact absurd hfull hsp.ne
  · exact ⟨_, hexec, by simp, rfl, toNat_zextAddr nnn, ((sameBut_push hsp _).trans (sameBut_applyDirective _ _)).mono
      (by simp)⟩

/-- Settles O19: the push finds room or the stack is full. -/
theorem callPushesTheNextAddress : Obligations.CallPushesTheNextAddress :=
  fun nnn _ => ⟨exec_call_of_lt nnn, fun hfull => takesFault_of_faultOf (if_pos hfull)⟩

/-- Settles O20: the return pops what the call pushed, and the entries below keep their values through both. -/
theorem retComesBackAfterCall : Obligations.RetComesBackAfterCall := by
  intro nnn s t u hsp hcall hstack husp
  obtain ⟨t', ht', hentry, htsp, -, hframe⟩ := exec_call_of_lt nnn hsp
  obtain rfl : t = t' := Host.Outcome.next.inj (hcall.symm.trans ht')
  rcases exec_ret_cases u with ⟨hempty, -⟩ | ⟨_, w, -, rfl, hexec⟩
  · omega
  · refine ⟨_, hexec, ?_, ?_, fun j hj => ?_⟩
    · simpa [hstack, husp, htsp] using hentry
    · exact Fin.ext (by simp [husp, htsp])
    · have hj' : t.stack[j] = s.stack[j] := hframe (.entry j) (by simp [Fin.ext_iff, hj.ne])
      simpa [hstack] using hj'

/-- Settles O21: the sum of an address of 12 bits and a byte does not wrap. -/
theorem jpV0AddsV0Unmasked : Obligations.JpV0AddsV0Unmasked := by
  intro nnn s
  refine ⟨_, rfl, ?_, sameBut_applyDirective _ s⟩
  have hnnn := nnn.isLt
  have hV0 := (s.reg V0).isLt
  rw [State.applyDirective_jump_pc, BitVec.toNat_add, toNat_zextAddr, toNat_zextByte]
  omega

/-- Settles O22: the sentinel writes its word to the outputs and advances. -/
theorem unknownIsANoOpThatReports : Obligations.UnknownIsANoOpThatReports := fun op _ =>
  ⟨_, rfl, rfl, rfl, rfl, rfl, exec_frame (i := .unknown op) rfl rfl⟩

/-! ### The skips (42_skip.md R83) -/

/-- What a skip with condition `c` does. -/
theorem skipIf_spec (s : State) (c : Bool) :
    ∃ t, s.skipIf c = .next t ∧ t.pc = (if c then s.pc + 4#16 else s.pc + 2#16) ∧ SameBut [.pc] s t :=
  ⟨_, rfl, State.applyDirective_if_pc s c, sameBut_applyDirective _ s⟩

/-- A skip on equality. -/
theorem skipIf_beq_spec (s : State) (a b : Byte) :
    ∃ t, s.skipIf (a == b) = .next t ∧ t.pc = (if a.toNat = b.toNat then s.pc + 4#16 else s.pc + 2#16) ∧
      SameBut [.pc] s t := by
  simpa [BitVec.toNat_inj] using skipIf_spec s (a == b)

/-- A skip on inequality. -/
theorem skipIf_bne_spec (s : State) (a b : Byte) :
    ∃ t, s.skipIf (a != b) = .next t ∧ t.pc = (if a.toNat = b.toNat then s.pc + 2#16 else s.pc + 4#16) ∧
      SameBut [.pc] s t := by
  simpa [BitVec.toNat_inj] using skipIf_spec s (a != b)

/-- Settles O23: two skips on equality and two on inequality. -/
theorem compareSkipsFollowTheirCondition : Obligations.CompareSkipsFollowTheirCondition := fun x y kk s =>
  ⟨skipIf_beq_spec s (s.reg x) kk, skipIf_bne_spec s (s.reg x) kk, skipIf_beq_spec s (s.reg x) (s.reg y),
    skipIf_bne_spec s (s.reg x) (s.reg y)⟩

theorem keyDown_setWidth (s : State) {v : Byte} (h : v.toNat ≤ 0xF) :
    s.keyDown (v.setWidth 4) = s.keys.getLsbD v.toNat := by
  rw [State.keyDown, BitVec.toNat_setWidth, Nat.mod_eq_of_lt (by omega)]

/-- Settles O24: `V[x]` is a key number or it is not. -/
theorem keySkipsFollowTheKey : Obligations.KeySkipsFollowTheKey := by
  refine fun x s => ⟨fun hx => ⟨?_, ?_⟩, fun hx =>
    ⟨takesFault_of_faultOf (i := .skp x) (if_pos hx), takesFault_of_faultOf (i := .sknp x) (if_pos hx)⟩⟩
  · rcases exec_skp_cases x s with ⟨hout, -⟩ | ⟨-, hexec⟩
    · omega
    · exact ⟨_, hexec, by rw [State.applyDirective_if_pc, keyDown_setWidth s hx], sameBut_applyDirective _ s⟩
  · rcases exec_sknp_cases x s with ⟨hout, -⟩ | ⟨-, hexec⟩
    · omega
    · refine ⟨_, hexec, ?_, sameBut_applyDirective _ s⟩
      rw [State.applyDirective_if_pc, keyDown_setWidth s hx]
      cases s.keys.getLsbD (s.reg x).toNat <;> rfl

/-! ### One register written (43_alu.md R94 to R97) -/

/-- The frame of a handler that writes one register and advances. -/
theorem sameBut_setReg_next (s : State) (x : RegIx) (v : Byte) :
    SameBut [.reg x, .pc] s ((s.setReg x v).applyDirective .next) :=
  (sameBut_setReg s x v).trans (sameBut_applyDirective .next _)

theorem toNat_addCarry (a b : Byte) : (addCarry a b).1.toNat = (a.toNat + b.toNat) % 256 := BitVec.toNat_ofNat ..

/-- Settles O25: each writes its result to one register. -/
theorem loadsAndLogicWriteOneRegister : Obligations.LoadsAndLogicWriteOneRegister := fun x y kk s =>
  ⟨⟨_, rfl, by simp, rfl, sameBut_setReg_next s x kk⟩,
    ⟨_, rfl, by simp [toNat_addCarry], rfl, sameBut_setReg_next s x _⟩,
    ⟨_, rfl, by simp, rfl, sameBut_setReg_next s x (s.reg y)⟩,
    ⟨_, rfl, by simp, rfl, sameBut_setReg_next s x (s.reg x ||| s.reg y)⟩,
    ⟨_, rfl, by simp, rfl, sameBut_setReg_next s x (s.reg x &&& s.reg y)⟩,
    ⟨_, rfl, by simp, rfl, sameBut_setReg_next s x (s.reg x ^^^ s.reg y)⟩⟩

/-! ### Result and flag (43_alu.md R90, R92) -/

theorem toNat_flagByte (f : Bool) : (flagByte f).toNat = if f then 1 else 0 := by cases f <;> rfl

/-- What a handler that writes a result and a flag and advances leaves, in either order of writing. -/
theorem writeback_next_spec (s : State) (x : RegIx) (rf : Byte × Bool) {r f : Nat} (hr : rf.1.toNat = r)
    (hf : (flagByte rf.2).toNat = f) :
    ∃ t, (s.writeback x rf).finish .next = .next t ∧ FlagWritten s t x r f ∧ t.pc = s.pc + 2#16 ∧
      SameBut [.reg x, .reg VF, .pc] s t := by
  subst hr hf
  refine ⟨_, rfl, ⟨fun hx => ?_, fun hx => ?_⟩, by simp, (sameBut_writeback s x rf).trans (sameBut_applyDirective _ _)⟩
  · cases h : s.cfg.flagOrder <;> simp [State.reg_writeback, h, hx, Ne.symm hx]
  · subst hx
    cases h : s.cfg.flagOrder <;> simp [State.reg_writeback, h]

theorem toNat_subNoBorrow (a b : Byte) : (subNoBorrow a b).1.toNat = (a.toNat + 256 - b.toNat) % 256 :=
  BitVec.toNat_ofNat ..

/-- Settles O26: the sum and the carry, written back. -/
theorem addSetsCarry : Obligations.AddSetsCarry :=
  ⟨fun _ hop hn => decode_of_row_eight (n := 0x4#4) hop hn rfl rfl,
    fun x _ s => writeback_next_spec s x _ (toNat_addCarry _ _) (by simp [toNat_flagByte, addCarry])⟩

/-- Settles O27: the difference and the strict comparison, written back. -/
theorem subFlagsAStrictlyGreaterMinuend : Obligations.SubFlagsAStrictlyGreaterMinuend :=
  ⟨fun _ hop hn => decode_of_row_eight (n := 0x5#4) hop hn rfl rfl,
    fun x _ s => writeback_next_spec s x _ (toNat_subNoBorrow _ _) (by simp [toNat_flagByte, subNoBorrow])⟩

/-- Settles O28: the same with the operands exchanged. -/
theorem subnIsTheMirror : Obligations.SubnIsTheMirror :=
  ⟨fun _ hop hn => decode_of_row_eight (n := 0x7#4) hop hn rfl rfl,
    fun x _ s => writeback_next_spec s x _ (toNat_subNoBorrow _ _) (by simp [toNat_flagByte, subNoBorrow])⟩

theorem toNat_shiftRightOut (v : Byte) : (shiftRightOut v).1.toNat = v.toNat / 2 := by
  rw [shiftRightOut, BitVec.toNat_ushiftRight, Nat.shiftRight_eq_div_pow]

theorem toNat_shiftLeftOut (v : Byte) : (shiftLeftOut v).1.toNat = v.toNat * 2 % 256 := by
  rw [shiftLeftOut, BitVec.toNat_shiftLeft, Nat.shiftLeft_eq]

theorem toNat_flagByte_getLsbD (v : Byte) (j : Nat) : (flagByte (v.getLsbD j)).toNat = v.toNat / 2 ^ j % 2 := by
  rw [toNat_flagByte, BitVec.getLsbD, Nat.testBit_eq_decide_div_mod_eq]
  rcases Nat.mod_two_eq_zero_or_one (v.toNat / 2 ^ j) with h | h <;> simp [h]

/-- Settles O29: half and bit 0, double and bit 7 of the operand, written back. -/
theorem shiftsFlagTheBitShiftedOut : Obligations.ShiftsFlagTheBitShiftedOut := by
  rintro x y s v hv
  obtain rfl : v = s.shiftOperand x y := hv
  have hhigh : (s.shiftOperand x y).toNat / 2 ^ 7 < 2 := by have := (s.shiftOperand x y).isLt; omega
  constructor
  · exact writeback_next_spec s x _ (toNat_shiftRightOut _)
      ((toNat_flagByte_getLsbD _ 0).trans (by rw [pow_zero, Nat.div_one]))
  · exact writeback_next_spec s x _ (toNat_shiftLeftOut _)
      ((toNat_flagByte_getLsbD _ 7).trans (Nat.mod_eq_of_lt hhigh))

end Sys2Proof.Machine
end

section
/-!
Memory, index and I/O (44_memory_index.md, 45_io.md).
-/

namespace Sys2Proof.Machine

/-! ### The index (44_memory_index.md R104, R105) -/

/-- The frame of a handler that writes the index and advances. -/
theorem sameBut_setIndex_next (s : State) (a : Word) : SameBut [.index, .pc] s ((s.setIndex a).applyDirective .next) :=
  (sameBut_setIndex s a).trans (sameBut_applyDirective .next _)

theorem State.toNat_glyphAddress (s : State) (v : Byte) :
    (s.glyphAddress v).toNat = (s.cfg.glyphBase.toNat + 5 * (v.toNat % 16)) % 65536 := by
  have hnibble : (v &&& 0x0F#8).toNat = v.toNat % 16 := by
    rw [BitVec.toNat_and]
    exact Nat.and_two_pow_sub_one_eq_mod v.toNat 4
  rw [State.glyphAddress, hnibble, BitVec.toNat_ofNat]

/-- Settles O31: both sums are computed on numbers and reduced. -/
theorem addIAndLdFComputeTheIndex : Obligations.AddIAndLdFComputeTheIndex := fun x s =>
  ⟨⟨_, rfl, by simp [BitVec.toNat_add], rfl, sameBut_setIndex_next s _⟩,
    ⟨_, rfl, by simp [State.toNat_glyphAddress], rfl, sameBut_setIndex_next s _⟩⟩

/-! ### Blocks at the index (44_memory_index.md R106 to R108) -/

/-- A byte of the block stored. -/
theorem readByte_storeAtIndex_add {s : State} {bs : List Byte} (hs : s.MemOk) (hI : s.I.toNat + bs.length ≤ 0x1000)
    {k : Nat} (hk : k < bs.length) : (s.storeAtIndex bs).readByte (s.I.toNat + k) = bs.getD k Memory.unlisted := by
  rw [readByte_storeAtIndex _ hs hI, if_pos ⟨Nat.le_add_right _ _, Nat.add_lt_add_left hk _⟩, Nat.add_sub_cancel_left]

/-- The digits of a byte as numbers. -/
theorem toNat_bcdDigits (v : Byte) : ((bcdDigits v).getD 0 Memory.unlisted).toNat = v.toNat / 100 ∧
    ((bcdDigits v).getD 1 Memory.unlisted).toNat = v.toNat / 10 % 10 ∧
    ((bcdDigits v).getD 2 Memory.unlisted).toNat = v.toNat % 10 := by
  have := v.isLt
  simp [bcdDigits]
  omega

/-- Settles O32: the block stored is the three digits. -/
theorem bcdStoresTheDigits : Obligations.BcdStoresTheDigits := by
  intro x s hs hI
  rcases exec_ldB_cases x s with ⟨_, hout, -, -⟩ | ⟨hin, hexec⟩
  · omega
  · have hread : ∀ k, k < 3 → ((s.storeAtIndex (bcdDigits (s.reg x))).applyDirective .next).readByte (s.I.toNat + k) =
        (bcdDigits (s.reg x)).getD k Memory.unlisted := by
      intro k hk
      rw [State.readByte_applyDirective]
      exact readByte_storeAtIndex_add (bs := bcdDigits (s.reg x)) hs hin hk
    obtain ⟨h0, h1, h2⟩ := toNat_bcdDigits (s.reg x)
    rw [← hread 0 (by decide), Nat.add_zero] at h0
    rw [← hread 1 (by decide)] at h1
    rw [← hread 2 (by decide)] at h2
    have hlt := (s.reg x).isLt
    have hframe := exec_frame (i := .ldB x) (if_neg (by omega)) hexec
    refine ⟨_, hexec, ?_, ?_, ?_, ?_, rfl, hframe⟩ <;> omega

/-- Where `Fx55` and `Fx65` leave the index, from the state `u` their block leaves. -/
theorem toNat_advanceIndex_I {s u : State} {x : RegIx} (hindex : u.I = s.I) (hcfg : u.cfg = s.cfg)
    (h : s.I.toNat + x.toNat ≤ 0xFFF) :
    (u.advanceIndex x).I.toNat = if s.cfg.indexAdvance then s.I.toNat + x.toNat + 1 else s.I.toNat := by
  rw [State.advanceIndex_I, hindex, hcfg]
  split
  · rw [blockCount, BitVec.toNat_add, BitVec.toNat_ofNat]
    omega
  · rfl

/-- Settles O33: the block stored is the registers. -/
theorem storeRegistersStoresTheBlock : Obligations.StoreRegistersStoresTheBlock := by
  intro x s hs hI
  rcases exec_ldMemV_cases x s with ⟨_, hout, -, -⟩ | ⟨hin, hexec⟩
  · rw [blockCount] at hout; omega
  · have hlength : s.I.toNat + (s.regBlock x).length ≤ 0x1000 := by rwa [State.length_regBlock]
    have hframe := exec_frame (i := .ldMemV x) (if_neg (by omega)) hexec
    refine ⟨_, hexec, fun q hq => ?_, ?_, by simp, hframe.mono fun _ => (List.Perm.swap _ _ _).mem_iff.mp⟩
    · have hq' : q.toNat < (s.regBlock x).length := by rw [State.length_regBlock]; exact Nat.lt_succ_of_le hq
      have hread := readByte_storeAtIndex_add hs hlength hq'
      rw [State.getD_regBlock s x q _ hq] at hread
      simpa using hread
    · rw [State.applyDirective_I]
      exact toNat_advanceIndex_I (State.storeAtIndex_I s _) (State.storeAtIndex_cfg s _) hI

/-- Settles O34: the block loaded is the bytes. -/
theorem loadRegistersLoadsTheBlock : Obligations.LoadRegistersLoadsTheBlock := by
  intro x s hI
  rcases exec_ldVMem_cases x s with ⟨_, hout, -, -⟩ | ⟨hin, hexec⟩
  · rw [blockCount] at hout; omega
  · have hframe := exec_frame (i := .ldVMem x) (if_neg (by omega)) hexec
    refine ⟨_, hexec, fun q => ?_, ?_, by simp, hframe.mono fun _ => (List.Perm.swap _ _ _).mem_iff.mp⟩
    · rw [State.reg_applyDirective, State.reg_advanceIndex, State.reg_loadRegBlock]
    · rw [State.applyDirective_I]
      exact toNat_advanceIndex_I (State.loadRegBlock_I s x _) (State.loadRegBlock_cfg s x _) hI

/-- Settles O35: each register loaded is the byte stored from it. -/
theorem storedRegistersLoadBack : Obligations.StoredRegistersLoadBack := by
  intro x s t u hs hI hstore hmem hindex
  obtain ⟨t', ht', hstored, -⟩ := storeRegistersStoresTheBlock x s hs hI
  obtain rfl : t = t' := Host.Outcome.next.inj (hstore.symm.trans ht')
  obtain ⟨v, hv, hloaded, -⟩ := loadRegistersLoadsTheBlock x u (by rwa [hindex])
  refine ⟨v, hv, fun q hq => ?_⟩
  calc v.reg q = u.readByte (u.I.toNat + q.toNat) := (hloaded q).trans (if_pos hq)
    _ = t.readByte (s.I.toNat + q.toNat) := by rw [hindex, State.readByte_congr hmem]
    _ = s.reg q := hstored q hq

/-- Settles O36: the range check fails, with the lowest address outside as info. -/
theorem blockOutsideMemoryFaults : Obligations.BlockOutsideMemoryFaults := by
  intro x y n a s ha
  rw [State.eq_lowestOutside ha]
  exact ⟨fun h => takesFault_of_faultOf (if_pos h), fun h => takesFault_of_faultOf (if_pos h),
    fun h => takesFault_of_faultOf (if_pos h), fun hn h => takesFault_of_faultOf (if_pos ⟨hn, h⟩)⟩

/-! ### I/O (45_io.md) -/

/-- Settles O37: the register takes the random byte under the mask. -/
theorem randomIsTheInputUnderTheMask : Obligations.RandomIsTheInputUnderTheMask := fun x kk s =>
  ⟨_, rfl, by simp, rfl, sameBut_setReg_next s x (s.rndIn &&& kk)⟩

/-- Settles O38: one register or one timer is written. -/
theorem timersAreReadAndWritten : Obligations.TimersAreReadAndWritten := fun x s =>
  ⟨⟨_, rfl, by simp, rfl, sameBut_setReg_next s x s.DT⟩,
    ⟨_, rfl, rfl, rfl, (sameBut_delay s _).trans (sameBut_applyDirective .next _)⟩,
    ⟨_, rfl, rfl, rfl, (sameBut_sound s _).trans (sameBut_applyDirective .next _)⟩⟩

/-- Settles O41: the directive leads to the pc itself, so the mode alone is written. -/
theorem waitKeyEntersWaitMode : Obligations.WaitKeyEntersWaitMode := fun x s =>
  ⟨_, rfl, rfl, sameBut_mode s (.awaitingKey x)⟩

/-- `Dxyn` with its rows inside memory: every pixel, the collision flag and the rest of what it leaves. -/
theorem exec_drw_spec (x y : BitVec 4) {n : BitVec 4} {s : State} (h : n.toNat = 0 ∨ s.I.toNat + n.toNat - 1 ≤ 0xFFF) :
    ∃ drawn, drawn = s.fb.drawSprite (s.reg x) (s.reg y) (s.indexBytes n.toNat) ∧
      exec (.drw x y n) s =
        .next (((s.setFramebuffer drawn.1).setReg VF (flagByte drawn.2)).applyDirective .next) := by
  rcases exec_drw_cases x y n s with ⟨_, hn, hout, -, -⟩ | ⟨-, drawn, hdrawn, hexec⟩
  · omega
  · exact ⟨drawn, by rw [hdrawn, readBlock_eq_indexBytes], hexec⟩

theorem length_indexBytes (s : State) (n : Nat) : (s.indexBytes n).length = n := by simp [State.indexBytes]

/-- Settles O39: the sprite drawn is the rows from the index, and its pixels and collision are those of `drawSprite_spec`. -/
theorem drawXorsTheSprite : Obligations.DrawXorsTheSprite := by
  intro x y n s h
  obtain ⟨drawn, rfl, hexec⟩ := exec_drw_spec x y h
  have hlength : (s.indexBytes n.toNat).length ≤ 32 := by rw [length_indexBytes]; have := n.isLt; omega
  obtain ⟨hpixel, hcollide⟩ := drawSprite_spec s.fb (s.reg x) (s.reg y) (s.indexBytes n.toNat) hlength
  have hframe := exec_frame (i := .drw x y n) (if_neg (by omega)) hexec
  refine ⟨_, hexec, fun px py => by simpa using hpixel px py, ?_, by simp, rfl, hframe.mono (by simp [writes])⟩
  rw [State.reg_applyDirective, State.reg_setReg, if_pos rfl, toNat_flagByte]
  cases hflag : (s.fb.drawSprite (s.reg x) (s.reg y) (s.indexBytes n.toNat)).2 with
  | true => exact .inl ⟨rfl, hcollide.mp hflag⟩
  | false => exact .inr ⟨rfl, by simpa [hflag] using hcollide⟩

/-- Settles O40: both draws lay the same bit over each pixel, which cancels. -/
theorem drawingTwiceRestoresTheScreen : Obligations.DrawingTwiceRestoresTheScreen := by
  intro x y n s t u v h hst hfb hmem hI hV huv px py
  obtain ⟨t', ht', hfirst, -⟩ := drawXorsTheSprite x y n s h
  obtain ⟨v', hv', hsecond, -⟩ := drawXorsTheSprite x y n u (by rwa [hI])
  obtain rfl : t = t' := Host.Outcome.next.inj (hst.symm.trans ht')
  obtain rfl : v = v' := Host.Outcome.next.inj (huv.symm.trans hv')
  have hrows : u.indexBytes n.toNat = s.indexBytes n.toNat := by
    simp only [State.indexBytes, hI, State.readByte_congr hmem]
  rw [hsecond, hfb, hfirst, hrows, State.reg_congr hV, State.reg_congr hV, Bool.xor_assoc, Bool.xor_self, Bool.xor_false]

end Sys2Proof.Machine
end

section
/-!
Rules of the whole machine: which instructions write and read which parts (10_state.md), and which faults they take
(60_exceptions.md R116).
-/

namespace Sys2Proof.Machine

/-! ### What is written, read off the frame of every instruction -/

/-- A part that changed is one the instruction writes, or one every instruction may write. -/
theorem mem_writes_of_changed {i : Instr} {s t : State} {p : Part} (h : exec i s = .next t) (hp : ¬ p.same s t)
    (hother : p ∉ [.pc, .fault, .dirty]) : p ∈ writes i s := by
  by_contra hw
  exact hp (sameBut_exec h p (by simp_all))

theorem fb_mem_writes {i : Instr} {s : State} (h : .fb ∈ writes i s) : i = .cls ∨ ∃ x y n, i = .drw x y n := by
  cases i <;> simp_all [writes, bytesFrom]

/-- Settles O43: the framebuffer is written by the two alone, and the dirty flag set by them alone. -/
theorem onlyClearAndDrawTouchTheScreen : Obligations.OnlyClearAndDrawTouchTheScreen := by
  rintro i s t h (hfb | ⟨hs, ht⟩)
  · exact fb_mem_writes (mem_writes_of_changed (p := .fb) h hfb (by simp))
  · rcases (exec_dirty_iff hs h).mp ht with hcls | ⟨x, y, n, hdrw, -⟩
    · exact .inl hcls
    · exact .inr ⟨x, y, n, hdrw⟩

theorem byte_mem_writes {i : Instr} {s : State} {a : Nat} (h : .byte a ∈ writes i s) :
    .byte a ∈ bytesFrom s.I.toNat (storeCount i) := by
  cases i <;> simp_all [writes, storeCount]

/-- An instruction that stores without a fault stores inside memory (20_memory.md R37). -/
theorem storeCount_le_of_no_fault {i : Instr} {s : State} (hf : faultOf i s = none) (h : storeCount i ≠ 0) :
    s.I.toNat + storeCount i ≤ 0x1000 := by
  cases i <;> simp_all [faultOf, storeCount]
  all_goals omega

/-- Settles O44: a byte that changed lies in the block stored, and the range check let the block through. -/
theorem memoryChangesOnlyWhereStored : Obligations.MemoryChangesOnlyWhereStored := by
  intro i s t a _ h hchanged
  have hmem := byte_mem_writes (mem_writes_of_changed (p := .byte a) h hchanged (by simp))
  obtain ⟨hlow, hhigh⟩ := (mem_bytesFrom _ _ _).mp hmem
  cases hf : faultOf i s with
  | some f =>
    obtain rfl := eq_latchFault_of_exec hf h
    exact absurd rfl hchanged
  | none =>
    have hin := storeCount_le_of_no_fault hf (by omega)
    exact ⟨hlow, hhigh, by omega⟩

theorem reg_mem_writes {i : Instr} {s : State} {r : RegIx} (h : .reg r ∈ writes i s) : writesReg i r := by
  cases i with
  | ldVMem x =>
    simp only [writes, List.mem_cons, reduceCtorEq, false_or, List.mem_map, List.mem_range, Part.reg.injEq] at h
    obtain ⟨k, hk, rfl⟩ := h
    have hle : (BitVec.ofNat 4 k).toNat ≤ k := Nat.mod_le _ _
    exact hle.trans (Nat.le_of_lt_succ hk)
  | _ => simp_all [writes, writesReg, bytesFrom]

/-- Settles O45: a register that changed is one the instruction writes. -/
theorem registersChangeOnlyWhereWritten : Obligations.RegistersChangeOnlyWhereWritten :=
  fun _ _ _ _ h hchanged => reg_mem_writes (mem_writes_of_changed h hchanged (by simp))

/-! ### What is read, by another periphery -/

/-- Where an instruction neither reads nor writes what `change` changes of the periphery, it commutes with the change. -/
theorem exec_changed_periphery {change : Periphery → Periphery} {i : Instr} {s t : State} (h : exec i s = .next t)
    (hread : Periphery.AgreeFor i s.periphery (change s.periphery))
    (hwrite : ∀ p, Periphery.writtenBy i t (change p) = change (Periphery.writtenBy i t p)) :
    exec i (s.withPeriphery (change s.periphery)) = .next (t.withPeriphery (change t.periphery)) := by
  rw [periphery_of_exec h, ← hwrite]
  exact exec_withPeriphery h hread

/-- Settles O46: the instructions left read and write no random byte. -/
theorem randomInputIsReadByRndAlone : Obligations.RandomInputIsReadByRndAlone := by
  intro i s t r hrnd h
  refine exec_changed_periphery (change := fun p => { p with rndIn := r }) h ?_ fun p => ?_
  · cases i with
    | rnd x kk => exact absurd rfl (hrnd x kk)
    | call | ret | skp | sknp | ldVDt => rfl
    | _ => trivial
  · cases i <;> rfl

/-- Settles O47: the latch is outside every frame, and the instructions left do not read it. -/
theorem keysAreReadByTheKeySkipsAlone : Obligations.KeysAreReadByTheKeySkipsAlone := by
  intro i s t k hskp hsknp h
  refine ⟨exec_keys h, exec_changed_periphery (change := fun p => { p with keys := k }) h ?_ fun p => ?_⟩
  · cases i with
    | skp x => exact absurd rfl (hskp x)
    | sknp x => exact absurd rfl (hsknp x)
    | call | ret | rnd | ldVDt => rfl
    | _ => trivial
  · cases i <;> rfl

theorem delay_mem_writes {i : Instr} {s : State} (h : .delay ∈ writes i s) : ∃ x, i = .ldDtV x := by
  cases i <;> simp_all [writes, bytesFrom]

theorem sound_mem_writes {i : Instr} {s : State} (h : .sound ∈ writes i s) : ∃ x, i = .ldStV x := by
  cases i <;> simp_all [writes, bytesFrom]

/-- Settles O48: the timers are in the frames of their own instructions alone, and the instructions left do not read them. -/
theorem timersServeTheirInstructionsAlone : Obligations.TimersServeTheirInstructionsAlone := by
  intro i s t v h
  refine ⟨fun hDT => delay_mem_writes (mem_writes_of_changed (p := .delay) h hDT (by simp)),
    fun hST => sound_mem_writes (mem_writes_of_changed (p := .sound) h hST (by simp)), fun hread hwrite => ?_,
    fun hwrite => ?_⟩
  · refine exec_changed_periphery (change := fun p => { p with DT := v }) h ?_ fun p => ?_
    · cases i with
      | ldVDt x => exact absurd rfl (hread x)
      | call | ret | skp | sknp | rnd => rfl
      | _ => trivial
    · cases i with
      | ldDtV x => exact absurd rfl (hwrite x)
      | _ => rfl
  · refine exec_changed_periphery (change := fun p => { p with ST := v }) h ?_ fun p => ?_
    · cases i with
      | call | ret | skp | sknp | rnd | ldVDt => rfl
      | _ => trivial
    · cases i with
      | ldStV x => exact absurd rfl (hwrite x)
      | _ => rfl

/-! ### The causes of the faults (60_exceptions.md R116) -/

/-- Settles O49: the fault latched is the instruction's own, whose row of the table gives cause, condition and info. -/
theorem faultsHaveTheirCauses : Obligations.FaultsHaveTheirCauses := by
  intro i s t f hs h ht
  cases hf : faultOf i s with
  | none => exact absurd (((exec_fault_eq hf h).trans hs).symm.trans ht) (by simp)
  | some g =>
    obtain rfl := eq_latchFault_of_exec hf h
    obtain rfl : g = f := Option.some.inj ht
    refine ⟨takesFault_latchFault g s, ?_⟩
    cases i <;> simp only [faultOf, Option.ite_none_right_eq_some, Option.some.injEq, reduceCtorEq] at hf <;>
      obtain ⟨hcause, rfl⟩ := hf <;> refine ⟨by simp [Fault.code], ?_⟩
    case call nnn => exact .inl ⟨nnn, rfl, rfl, hcause, rfl⟩
    case ret => exact .inr (.inl ⟨rfl, rfl, hcause, rfl⟩)
    case ldB x => exact .inr (.inr (.inl ⟨rfl, s.toNat_lowestOutside, .inl ⟨x, rfl, hcause⟩⟩))
    case ldMemV x => exact .inr (.inr (.inl ⟨rfl, s.toNat_lowestOutside, .inr (.inl ⟨x, .inl rfl, hcause⟩)⟩))
    case ldVMem x => exact .inr (.inr (.inl ⟨rfl, s.toNat_lowestOutside, .inr (.inl ⟨x, .inr rfl, hcause⟩)⟩))
    case drw x y n => exact .inr (.inr (.inl ⟨rfl, s.toNat_lowestOutside, .inr (.inr ⟨x, y, n, rfl, hcause⟩)⟩))
    case skp x => exact .inr (.inr (.inr ⟨x, .inl rfl, rfl, hcause, rfl⟩))
    case sknp x => exact .inr (.inr (.inr ⟨x, .inr rfl, rfl, hcause, rfl⟩))

end Sys2Proof.Machine
end
